-- ==== Sys2Proof/Word.lean ====
section
/-! DEFINITION. The word types of BitUnpacker: bytes of buffer memory, 16-bit fields and words, 32-bit registers. -/

namespace Sys2Proof

/-- A byte of buffer memory (`20_memory.md` R60). -/
abbrev Byte := BitVec 8

/-- A 16-bit register field or sample word (`00_scope.md` R8). -/
abbrev Half := BitVec 16

/-- A 32-bit register or command word (`00_scope.md` R8). -/
abbrev Word := BitVec 32

end Sys2Proof
end

