-- ==== Sys2Proof/Syntax.lean ====
section
/-! DEFINITION. The commands of BitUnpacker: one constructor per row of spec/opcode_table.json, with the used fields of
its CMD32 word (`30_encoding.md` R81, R92). The fields admit the ill-formed values too (BPP code 3, CH 0 and 2, MODE 6 and 7,
GROUP 0): such a word spells its row's command (R94), and the completion step judges it (`60_exceptions.md` R202). -/

namespace Sys2Proof

/-- The BPP field (`30_encoding.md` R83): a bit-depth, or code 3, which names none. -/
inductive Bpp where
  | depth8
  | depth12
  | depth16
  /-- Code 3: "no bit-depth". -/
  | noDepth
deriving DecidableEq, Repr

/-- The LAYOUT field (`30_encoding.md` R87). -/
inductive Layout where
  | gbrg
  | grbg
  | bggr
  | rggb
deriving DecidableEq, Repr

/-- The TARGET field (`30_encoding.md` R88). -/
inductive Target where
  | gray
  | rgb
deriving DecidableEq, Repr

/-- The mnemonics of the opcode map (`30_encoding.md` R82). -/
inductive Mnemonic where
  | endian
  | unpack8
  | unpack16
  | stretch16
  | window8
  | norm8
  | gain
  | demosaic
deriving DecidableEq, Repr

/-- A command: what a CMD32 word with a legal opcode and no reserved or unused bit spells (`30_encoding.md` R94). -/
inductive Instr where
  /-- ENDIAN, `40_endian.md` R111. -/
  | endian (group : BitVec 4)
  /-- UNPACK8, `41_bitunpack.md` R130. -/
  | unpack8 (bpp : Bpp) (hz : Bool) (ch : BitVec 2)
  /-- UNPACK16, `41_bitunpack.md` R135. -/
  | unpack16 (bpp : Bpp) (hz : Bool) (ch : BitVec 2)
  /-- STRETCH16, `41_bitunpack.md` R140. -/
  | stretch16 (bpp : Bpp) (hz : Bool) (ch : BitVec 2)
  /-- WINDOW8, `41_bitunpack.md` R145. -/
  | window8 (bpp : Bpp) (hz : Bool) (mode : BitVec 3) (ch : BitVec 2)
  /-- NORM8, `42_range_reduce.md` R162. -/
  | norm8 (bpp : Bpp) (ch : BitVec 2)
  /-- GAIN, `44_gain.md` R181. -/
  | gain (bpp : Bpp) (ch : BitVec 2) (layout : Layout)
  /-- DEMOSAIC, `43_demosaic.md` R171. -/
  | demosaic (bpp : Bpp) (ch : BitVec 2) (layout : Layout) (target : Target)
deriving DecidableEq, Repr

/-- The mnemonic of a command. -/
def Instr.mnemonic : Instr → Mnemonic
  | .endian _ => .endian
  | .unpack8 _ _ _ => .unpack8
  | .unpack16 _ _ _ => .unpack16
  | .stretch16 _ _ _ => .stretch16
  | .window8 _ _ _ _ => .window8
  | .norm8 _ _ => .norm8
  | .gain _ _ _ => .gain
  | .demosaic _ _ _ _ => .demosaic

end Sys2Proof
end

