-- ==== Sys2Proof/Config.lean ====
section
/-! DEFINITION. What an implementation fixes and what the spec leaves free (`00_scope.md` R7, R9; `20_memory.md` R62):
the parameters as plain data with their defaults, and the free values as opaque constants that nothing in Lean can evaluate. -/

namespace Sys2Proof

/-- WORD_ORDER: the byte order of intermediate and output words (`20_memory.md` R64). -/
inductive WordOrder where
  | be
  | le
deriving DecidableEq, Repr

/-- EXT8TO16: how UNPACK16 widens a byte (`41_bitunpack.md` R135). -/
inductive Ext8To16 where
  | zext
  | dup
deriving DecidableEq, Repr

/-- NORM_ROUND: the rounding of Normalize (`42_range_reduce.md` R161). -/
inductive NormRound where
  | halfUp
  | trunc
deriving DecidableEq, Repr

/-- GAIN_ROUND: the rounding of the gain product (`44_gain.md` R181). -/
inductive GainRound where
  | halfUp
  | halfEven
  | trunc
deriving DecidableEq, Repr

/-- The parameters of `00_scope.md` R7, but for DemosaicKernel, which is a function (`Config.demosaicSample`). -/
structure Params where
  /-- MEM_SIZE, 1 .. 2^32. -/
  memSize : Nat
  wordOrder : WordOrder
  /-- STRIDE(8, any hz). -/
  stride8 : Nat
  /-- STRIDE(12, hz = 1). -/
  stride12hz : Nat
  /-- STRIDE(12, hz = 0). -/
  stride12 : Nat
  /-- STRIDE(16, hz = 0). -/
  stride16 : Nat
  /-- WIN16_SHIFT(0) .. WIN16_SHIFT(4), each 0 .. 8. -/
  winShift0 : Nat
  winShift1 : Nat
  winShift2 : Nat
  winShift3 : Nat
  winShift4 : Nat
  ext8To16 : Ext8To16
  normRound : NormRound
  gainRound : GainRound
deriving DecidableEq, Repr

/-- Every parameter lies in the range that `00_scope.md` R7 gives it. -/
abbrev Params.wf (p : Params) : Prop :=
  1 ≤ p.memSize ∧ p.memSize ≤ 2 ^ 32 ∧
  0 < p.stride8 ∧ 0 < p.stride12hz ∧ 0 < p.stride12 ∧ 0 < p.stride16 ∧
  p.winShift0 ≤ 8 ∧ p.winShift1 ≤ 8 ∧ p.winShift2 ≤ 8 ∧ p.winShift3 ≤ 8 ∧ p.winShift4 ≤ 8

/-- The parameters with every default of `00_scope.md` R7; MEM_SIZE has none, so it is an argument. -/
def Params.default (memSize : Nat) : Params where
  memSize := memSize
  wordOrder := .be
  stride8 := 4
  stride12hz := 4
  stride12 := 6
  stride16 := 8
  winShift0 := 8
  winShift1 := 7
  winShift2 := 6
  winShift3 := 5
  winShift4 := 4
  ext8To16 := .zext
  normRound := .halfUp
  gainRound := .halfUp

/-- The implementation's MEM_SIZE less one: any value of 0 .. 2^32 - 1 (free, `00_scope.md` R7; log entry 3). -/
opaque Config.memSizeLessOne : BitVec 32

/-- The implementation's MEM_SIZE: some value of 1 .. 2^32 (`20_memory.md` R60; log entry 3). -/
def Config.memSize : Nat := Config.memSizeLessOne.toNat + 1

/-- The free draw of the byte at an address after power-on reset (`20_memory.md` R62; log entry 4). -/
opaque Config.powerOnByte : Nat → Byte

/-- The free value behind element `j` of DemosaicKernel(layout, target, depth, W, H, samples)
(`00_scope.md` R9; log entry 6). -/
opaque Config.demosaicSample (l : Layout) (t : Target) (depth w h : Nat) (samples : List Nat) (j : Nat) : Nat

end Sys2Proof
end

