-- ==== Sys2Proof/Machine/State.lean ====
section
/-! DEFINITION. The state of BitUnpacker as plain data (`10_state.md` R20 to R43, `20_memory.md` R60): the register fields,
the buffer memory, the fault set, and the model's own fields (the parameters, the events still to come, what the host read). -/

namespace Sys2Proof.Machine

/-- The host-protocol faults (`10_state.md` R43). The step RECORDS them in `State.faults` and goes on, as the spec says;
it never stops with one (log entry 7). -/
inductive Fault where
  /-- HOST_BAD_ACCESS (`10_state.md` R40, `20_memory.md` R61): a host access that is not part of the interface. Raised by
  `hostStep`; safe: the access has no effect. -/
  | hostBadAccess
  /-- HOST_RACE (`70_reset_and_hazards.md` R237): a host access to buffer memory while BUSY. Raised by `hostStep`; safe: the
  access has no effect, and a claim about memory assumes that no fault is recorded. -/
  | hostRace
deriving DecidableEq, Repr

/-- Why a step gives an instruction no meaning. -/
inductive Refusal where
  /-- An instruction without a meaning yet. Raised by no arm of `exec`: every command is modelled; safe. -/
  | notModelled (mnemonic : String)
deriving DecidableEq, Repr

/-- The set of recorded host-protocol faults (`10_state.md` R43), one Bool per fault. -/
structure FaultSet where
  hostBadAccess : Bool
  hostRace : Bool
deriving DecidableEq, Repr

/-- Buffer memory (`20_memory.md` R60) as the bytes written since power-on: address and byte pairs. -/
abbrev Memory := List Host.Cell

/-- The canonical form of a memory: the addresses strictly rise. An unlisted address holds no written byte, so no entry can
equal what an unlisted address holds (log entry 5). -/
abbrev Memory.wf (m : Memory) : Prop := m.Pairwise fun x y => x.1 < y.1

/-- The words of the register window (`10_state.md` R23). -/
inductive Reg where
  | id
  | ctrl
  | status
  | cmd
  | src
  | dst
  | len
  | dim
  | offset
  | gainR
  | gainG
  | gainB
  | outLen
  | maxval
  /-- Offset 0x38, RAZ/WI. -/
  | reserved38
  /-- Offset 0x3C, RAZ/WI. -/
  | reserved3C
deriving DecidableEq, Repr

/-- A host operation (`00_scope.md` R5): a register access at a byte offset of the window and of a number of bytes
(`10_state.md` R40), or a memory access to one byte (`20_memory.md` R61). -/
inductive HostOp where
  | regRead (offset bytes : Nat)
  | regWrite (offset bytes : Nat) (value : Word)
  | memRead (addr : Nat)
  | memWrite (addr : Nat) (value : Byte)
deriving DecidableEq, Repr

/-- An event of the total order of `20_memory.md` R72. -/
inductive Event where
  | host (op : HostOp)
  /-- The engine's turn: its completion step, if one is enabled. -/
  | engine
deriving DecidableEq, Repr

/-- What a host read returned. -/
inductive ReadData where
  | reg (r : Reg) (value : Word)
  | mem (addr : Nat) (value : Byte)
deriving DecidableEq, Repr

/-- The state of the block (`10_state.md` R22, R43). -/
structure State where
  /-- The model's own: the implementation parameters (`00_scope.md` R7); no step changes them (log entry 3). -/
  params : Params
  /-- CTRL.IRQ_EN (R25). -/
  irqEn : Bool
  /-- STATUS.BUSY (R35). -/
  busy : Bool
  /-- STATUS.DONE (R35). -/
  done : Bool
  /-- STATUS.ERR (R35). -/
  err : Bool
  /-- STATUS.ERRCODE (R35). -/
  errcode : BitVec 8
  /-- CMD (R26): the last command word stored, which a running command keeps. -/
  cmd : Word
  /-- SRC (R27). -/
  src : Word
  /-- DST (R28). -/
  dst : Word
  /-- LEN (R29). -/
  len : Word
  /-- DIM.WIDTH (R30). -/
  width : Half
  /-- DIM.HEIGHT (R30). -/
  height : Half
  /-- OFFSET (R31). -/
  offset : Word
  /-- GAIN_R (R32). -/
  gainR : Half
  /-- GAIN_G (R33). -/
  gainG : Half
  /-- GAIN_B (R34). -/
  gainB : Half
  /-- OUT_LEN (R36). -/
  outLen : Word
  /-- MAXVAL (R38). -/
  maxval : Half
  /-- The buffer memory (`20_memory.md` R60). -/
  mem : Memory
  /-- The fault set (R43). -/
  faults : FaultSet
  /-- The model's own: the events still to come, in the order of `20_memory.md` R72 (log entry 1). -/
  events : List Event
  /-- The model's own: what the host's reads returned, newest first (log entry 9). -/
  reads : List ReadData
deriving DecidableEq, Repr

/-- Power-on reset of a block with the given parameters (`70_reset_and_hazards.md` R230): the reset column of `10_state.md`
R23, no fault, no written byte of memory (R62), no event to come. -/
def State.powerOn (p : Params) : State where
  params := p
  irqEn := false
  busy := false
  done := false
  err := false
  errcode := 0
  cmd := 0
  src := 0
  dst := 0
  len := 0
  width := 0
  height := 0
  offset := 0
  gainR := 0x0400
  gainG := 0x0400
  gainB := 0x0400
  outLen := 0
  maxval := 0
  mem := []
  faults := { hostBadAccess := false, hostRace := false }
  events := []
  reads := []

/-- The machine right after power-on reset: the defaults of `00_scope.md` R7, and the implementation's MEM_SIZE. -/
def State.reset : State := State.powerOn (Params.default Config.memSize)

end Sys2Proof.Machine
end

