-- ==== Sys2Proof/Machine/Ops.lean ====
section
/-! DEFINITION. The named operations over memory and registers (`00_scope.md` R12, `20_memory.md` R64) and the completion of
a command (`60_exceptions.md` R206): this block's one way to end a command, with OK or with an error code (it has no traps,
R200). -/

namespace Sys2Proof.Machine

/-- The byte written at an address since power-on, if any. -/
def Memory.cell : Memory → Nat → Option Byte
  | [], _ => none
  | (x, c) :: m, a => if x = a then some c else Memory.cell m a

/-- `Rd8` as a byte: the written byte, or the power-on draw of an address nothing has written (`20_memory.md` R62). -/
def Memory.read (m : Memory) (a : Nat) : Byte := (Memory.cell m a).getD (Config.powerOnByte a)

/-- Writing one byte, keeping the addresses strictly rising. -/
def Memory.write : Memory → Nat → Byte → Memory
  | [], a, b => [(a, b)]
  | (x, c) :: m, a, b =>
    if a < x then (a, b) :: (x, c) :: m
    else if a = x then (a, b) :: m
    else (x, c) :: Memory.write m a b

/-- `MemRead(a, n)` (`00_scope.md` R12). -/
def Memory.readRange (m : Memory) (a n : Nat) : List Byte := (List.range n).map fun i => Memory.read m (a + i)

/-- `MemWrite(a, n, bs)` with n the length of bs (`00_scope.md` R12). -/
def Memory.writeRange : Memory → Nat → List Byte → Memory
  | m, _, [] => m
  | m, a, b :: bs => Memory.writeRange (Memory.write m a b) (a + 1) bs

/-- `Rd8(a)` (`00_scope.md` R12). -/
def Memory.rd8 (m : Memory) (a : Nat) : Nat := (Memory.read m a).toNat

/-- `RdBE16(a)` (`00_scope.md` R12). -/
def Memory.rdBE16 (m : Memory) (a : Nat) : Nat := Memory.rd8 m a * 256 + Memory.rd8 m (a + 1)

/-- `RdW(a)` (`20_memory.md` R64). -/
def Memory.rdW (o : WordOrder) (m : Memory) (a : Nat) : Nat :=
  match o with
  | .be => Memory.rd8 m a * 256 + Memory.rd8 m (a + 1)
  | .le => Memory.rd8 m (a + 1) * 256 + Memory.rd8 m a

/-- The two bytes `WrW` writes for a 16-bit value, in memory order (`20_memory.md` R64). -/
def wordBytes (o : WordOrder) (v : Nat) : List Byte :=
  match o with
  | .be => [BitVec.ofNat 8 (v >>> 8), BitVec.ofNat 8 v]
  | .le => [BitVec.ofNat 8 v, BitVec.ofNat 8 (v >>> 8)]

/-- The bytes of a list of 16-bit words, one `WrW` after the other. -/
def wordListBytes (o : WordOrder) (ws : List Nat) : List Byte := ws.flatMap (wordBytes o)

/-- The bytes of a list of values below 256. -/
def byteList (vs : List Nat) : List Byte := vs.map (BitVec.ofNat 8)

/-- The result codes (`60_exceptions.md` R201). -/
inductive ResultCode where
  | ok
  | cfgOpcode
  | cfgReserved
  | cfgBpp
  | cfgHz16
  | cfgMode
  | cfgChannels
  | cfgGroup
  | cfgDim
  | cfgGain
  | sizeMismatch
  | bounds
deriving DecidableEq, Repr

/-- The ERRCODE values (`60_exceptions.md` R201). -/
def codeByte : ResultCode → BitVec 8
  | .ok => 0x00
  | .cfgOpcode => 0x01
  | .cfgReserved => 0x02
  | .cfgBpp => 0x03
  | .cfgHz16 => 0x04
  | .cfgMode => 0x05
  | .cfgChannels => 0x06
  | .cfgGroup => 0x07
  | .cfgDim => 0x08
  | .cfgGain => 0x09
  | .sizeMismatch => 0x10
  | .bounds => 0x20

/-- The completion step's last lines (`60_exceptions.md` R206): OUT_LEN, ERRCODE, ERR, DONE and BUSY. -/
def State.complete (code : ResultCode) (outLen : Nat) (s : State) : State :=
  { s with
    outLen := BitVec.ofNat 32 outLen
    errcode := codeByte code
    err := decide (code ≠ .ok)
    done := true
    busy := false }

/-- `raise E`: the command ends with an error code, OUT_LEN 0 and nothing written (`00_scope.md` R12,
`60_exceptions.md` R203). -/
def State.raise (code : ResultCode) (s : State) : State := State.complete code 0 s

/-- `finish(outLen)`: the command ends with OK (`60_exceptions.md` R207). -/
def State.finish (outLen : Nat) (s : State) : State := State.complete .ok outLen s

/-- `MemWrite(a, n, bs)` on the state's buffer memory. -/
def State.store (a : Nat) (bs : List Byte) (s : State) : State := { s with mem := Memory.writeRange s.mem a bs }

/-- `MAXVAL <- v` (`10_state.md` R38). -/
def State.setMaxval (v : Nat) (s : State) : State := { s with maxval := BitVec.ofNat 16 v }

/-- One step of the check table (`60_exceptions.md` R202): whether its condition holds, and its code. -/
abbrev Check := Bool × ResultCode

/-- The code of the first check whose condition holds (`60_exceptions.md` R202). -/
def firstFailing : List Check → Option ResultCode
  | [] => none
  | (holds, code) :: rest => if holds then some code else firstFailing rest

/-- The completion step of a decoded command (`60_exceptions.md` R206): the first failing check raises its code, and only
a command that fails none runs its pseudocode. -/
def runCommand (checks : List Check) (pseudocode : State → State) (s : State) : Host.Outcome State Fault Refusal :=
  match firstFailing checks with
  | some code => .next (State.raise code s)
  | none => .next (pseudocode s)

/-- Adding a fault to the fault set; no operation takes one out (`10_state.md` R43). -/
def FaultSet.add (f : Fault) (fs : FaultSet) : FaultSet :=
  match f with
  | .hostBadAccess => { fs with hostBadAccess := true }
  | .hostRace => { fs with hostRace := true }

/-- Recording a host-protocol fault, with no other effect (`10_state.md` R40, `70_reset_and_hazards.md` R237). -/
def State.record (f : Fault) (s : State) : State := { s with faults := FaultSet.add f s.faults }

/-- Issuing a command word (`10_state.md` R26). -/
def State.issue (v : Word) (s : State) : State :=
  { s with cmd := v, done := false, err := false, errcode := codeByte .ok, busy := true }

/-- Soft reset (`70_reset_and_hazards.md` R231): every register at its reset value; memory, fault set and the model's own
fields stay. -/
def State.softReset (s : State) : State :=
  { State.powerOn s.params with mem := s.mem, faults := s.faults, events := s.events, reads := s.reads }

end Sys2Proof.Machine
end

