-- ==== Sys2Proof/Machine/Operands.lean ====
section
/-! DEFINITION. The operand forms: sample counts and expected lengths (`41_bitunpack.md` R121, R122), sample reconstruction
(R120), elements (`42_range_reduce.md` R162), mosaic sites (`30_encoding.md` R90) and gains (`10_state.md` R32). -/

namespace Sys2Proof.Machine

/-- The bits of a bit-depth (`30_encoding.md` R83); code 3 names none, and no rule uses this value for it. -/
def bppBits : Bpp → Nat
  | .depth8 => 8
  | .depth12 => 12
  | .depth16 => 16
  | .noDepth => 0

/-- N = WIDTH * HEIGHT * CH (`41_bitunpack.md` R121), exact. -/
def sampleCount (ch : BitVec 2) (s : State) : Nat := s.width.toNat * s.height.toNat * ch.toNat

/-- WIDTH * HEIGHT. -/
def pixelCount (s : State) : Nat := s.width.toNat * s.height.toNat

/-- CB, the container bits per sample (`41_bitunpack.md` R120). -/
def containerBits : Bpp → Bool → Nat
  | .depth8, _ => 8
  | .depth12, true => 16
  | .depth12, false => 12
  | .depth16, _ => 16
  | .noDepth, _ => 0

/-- ExpLen = ceil(N * CB / 8) (`41_bitunpack.md` R121). -/
def expectedLength (bpp : Bpp) (hz : Bool) (n : Nat) : Nat := (n * containerBits bpp hz + 7) / 8

/-- STRIDE(bpp, hz) (`41_bitunpack.md` R122), with hz taken as 0 when bpp = 8 (`60_exceptions.md` R202). -/
def stride (p : Params) : Bpp → Bool → Nat
  | .depth8, _ => p.stride8
  | .depth12, true => p.stride12hz
  | .depth12, false => p.stride12
  | .depth16, _ => p.stride16
  | .noDepth, _ => 1

/-- Sample(i) of a source at an address (`41_bitunpack.md` R120). -/
def sample (m : Memory) (src : Nat) (bpp : Bpp) (hz : Bool) (i : Nat) : Nat :=
  match bpp, hz with
  | .depth8, _ => Memory.rd8 m (src + i)
  | .depth12, true => (Memory.rd8 m (src + 2 * i) &&& 0x0F) <<< 8 ||| Memory.rd8 m (src + 2 * i + 1)
  | .depth12, false =>
    let a := src + 3 * (i / 2)
    if i % 2 = 0 then Memory.rd8 m a <<< 4 ||| Memory.rd8 m (a + 1) >>> 4
    else (Memory.rd8 m (a + 1) &&& 0x0F) <<< 8 ||| Memory.rd8 m (a + 2)
  | .depth16, _ => Memory.rdBE16 m (src + 2 * i)
  | .noDepth, _ => 0

/-- The source samples of a BitUnpacker command, in order. -/
def samples (bpp : Bpp) (hz : Bool) (ch : BitVec 2) (s : State) : List Nat :=
  (List.range (sampleCount ch s)).map (sample s.mem s.src.toNat bpp hz)

/-- Element i of an unpacked source: a byte, or a word in WORD_ORDER (`42_range_reduce.md` R162, `43_demosaic.md` R171). -/
def element (o : WordOrder) (m : Memory) (src : Nat) (bpp : Bpp) (i : Nat) : Nat :=
  match bpp with
  | .depth16 => Memory.rdW o m (src + 2 * i)
  | _ => Memory.rd8 m (src + i)

/-- The first n elements of an unpacked source. -/
def elements (bpp : Bpp) (n : Nat) (s : State) : List Nat :=
  (List.range n).map (element s.params.wordOrder s.mem s.src.toNat bpp)

/-- A sample site of the Bayer mosaic (`00_scope.md` R15). -/
inductive Site where
  | r
  | g1
  | g2
  | b
deriving DecidableEq, Repr

/-- Site(L, y mod 2, x mod 2) (`30_encoding.md` R90). -/
def siteOf (l : Layout) (y x : Nat) : Site :=
  match l, y % 2, x % 2 with
  | .gbrg, 0, 0 => .g1
  | .gbrg, 0, _ => .b
  | .gbrg, _, 0 => .r
  | .gbrg, _, _ => .g2
  | .grbg, 0, 0 => .g1
  | .grbg, 0, _ => .r
  | .grbg, _, 0 => .b
  | .grbg, _, _ => .g2
  | .bggr, 0, 0 => .b
  | .bggr, 0, _ => .g1
  | .bggr, _, 0 => .g2
  | .bggr, _, _ => .r
  | .rggb, 0, 0 => .r
  | .rggb, 0, _ => .g1
  | .rggb, _, 0 => .g2
  | .rggb, _, _ => .b

/-- sext_16 of a gain register (`10_state.md` R32, `30_encoding.md` R96), in units of 1/1024. -/
def gainValue (g : Half) : Int := g.toInt

/-- The gain of a site (`44_gain.md` R181, R182). -/
def siteGain (s : State) : Site → Int
  | .r => gainValue s.gainR
  | .g1 => gainValue s.gainG
  | .g2 => gainValue s.gainG
  | .b => gainValue s.gainB

/-- WIN16_SHIFT(m) (`00_scope.md` R7); no rule uses a mode above 4 here. -/
def win16Shift (p : Params) (mode : Nat) : Nat :=
  match mode with
  | 0 => p.winShift0
  | 1 => p.winShift1
  | 2 => p.winShift2
  | 3 => p.winShift3
  | _ => p.winShift4

/-- C, the channels of a DEMOSAIC output (`43_demosaic.md` R171, R172). -/
def targetChannels : Target → Nat
  | .gray => 1
  | .rgb => 3

end Sys2Proof.Machine
end

