-- ==== Sys2Proof/Machine/Flags.lean ====
section
/-! DEFINITION. The check steps of `60_exceptions.md` R202, the STATUS word (`10_state.md` R35) and the IRQ level (R37). -/

namespace Sys2Proof.Machine

/-- Step 3: BPP = 3, or a depth the opcode does not accept. -/
def checkBpp (accepted : List Bpp) (bpp : Bpp) : Check := (!accepted.contains bpp, .cfgBpp)

/-- Step 4: bpp 16 with HZ = 1. -/
def checkHz16 (bpp : Bpp) (hz : Bool) : Check := (bpp == .depth16 && hz, .cfgHz16)

/-- Step 5: MODE > 5. -/
def checkMode (mode : BitVec 3) : Check := (decide (mode.toNat > 5), .cfgMode)

/-- Step 6: CH not 1 or 3. -/
def checkChannels (ch : BitVec 2) : Check := (!(ch.toNat == 1 || ch.toNat == 3), .cfgChannels)

/-- Step 6 for a mosaic command: CH not 1. -/
def checkOneChannel (ch : BitVec 2) : Check := (!(ch.toNat == 1), .cfgChannels)

/-- Step 7: GROUP = 0. -/
def checkGroup (group : BitVec 4) : Check := (group.toNat == 0, .cfgGroup)

/-- Step 8: WIDTH = 0 or HEIGHT = 0. -/
def checkDim (s : State) : Check := (s.width.toNat == 0 || s.height.toNat == 0, .cfgDim)

/-- Step 8 for a mosaic command: also WIDTH odd or HEIGHT odd. -/
def checkEvenDim (s : State) : Check :=
  (s.width.toNat == 0 || s.height.toNat == 0 || s.width.toNat % 2 == 1 || s.height.toNat % 2 == 1, .cfgDim)

/-- A raw gain outside -10240 .. 10240 (`10_state.md` R32). -/
def gainIllegal (g : Half) : Bool := decide (gainValue g < -10240) || decide (gainValue g > 10240)

/-- Step 9: any of the three gains outside -10240 .. 10240. -/
def checkGains (s : State) : Check := (gainIllegal s.gainR || gainIllegal s.gainG || gainIllegal s.gainB, .cfgGain)

/-- Step 10 for ENDIAN: OFFSET > LEN, or a remainder of the group length. -/
def checkGroups (group : BitVec 4) (s : State) : Check :=
  (decide (s.offset.toNat > s.len.toNat) || (s.len.toNat - s.offset.toNat) % group.toNat != 0, .sizeMismatch)

/-- Step 10 for the BitUnpacker commands: LEN ≠ ExpLen, or a stride remainder. -/
def checkPacked (bpp : Bpp) (hz : Bool) (ch : BitVec 2) (s : State) : Check :=
  (s.len.toNat != expectedLength bpp hz (sampleCount ch s) || s.len.toNat % stride s.params bpp hz != 0, .sizeMismatch)

/-- Step 10 for the other commands: LEN is not the given length. -/
def checkLength (expected : Nat) (s : State) : Check := (s.len.toNat != expected, .sizeMismatch)

/-- Step 11: SRC + LEN > MEM_SIZE, without wrap-around (`20_memory.md` R67). -/
def checkSource (s : State) : Check := (decide (s.src.toNat + s.len.toNat > s.params.memSize), .bounds)

/-- Step 12: DST + OutLen > MEM_SIZE. -/
def checkDestination (outLen : Nat) (s : State) : Check := (decide (s.dst.toNat + outLen > s.params.memSize), .bounds)

/-- The STATUS word a register read returns (`10_state.md` R35). -/
def statusWord (s : State) : Word :=
  0#16 ++ s.errcode ++ 0#5 ++ BitVec.ofBool s.err ++ BitVec.ofBool s.done ++ BitVec.ofBool s.busy

/-- The IRQ output, a level (`10_state.md` R37). -/
def irqLevel (s : State) : Bool := s.irqEn && s.done

end Sys2Proof.Machine
end

