-- ==== Sys2Proof/Machine/Bus.lean ====
section
/-! DEFINITION. The host's side: the register window and its access rules (`10_state.md` R23 to R41), memory byte accesses
(`20_memory.md` R61) and the host-protocol faults (`70_reset_and_hazards.md` R237). -/

namespace Sys2Proof.Machine

/-- The offset of a register in the window (`10_state.md` R23). -/
def regOffset : Reg → Nat
  | .id => 0x00
  | .ctrl => 0x04
  | .status => 0x08
  | .cmd => 0x0C
  | .src => 0x10
  | .dst => 0x14
  | .len => 0x18
  | .dim => 0x1C
  | .offset => 0x20
  | .gainR => 0x24
  | .gainG => 0x28
  | .gainB => 0x2C
  | .outLen => 0x30
  | .maxval => 0x34
  | .reserved38 => 0x38
  | .reserved3C => 0x3C

/-- The register at a word-aligned offset of the window (`10_state.md` R23). -/
def regAt : Nat → Option Reg
  | 0x00 => some .id
  | 0x04 => some .ctrl
  | 0x08 => some .status
  | 0x0C => some .cmd
  | 0x10 => some .src
  | 0x14 => some .dst
  | 0x18 => some .len
  | 0x1C => some .dim
  | 0x20 => some .offset
  | 0x24 => some .gainR
  | 0x28 => some .gainG
  | 0x2C => some .gainB
  | 0x30 => some .outLen
  | 0x34 => some .maxval
  | 0x38 => some .reserved38
  | 0x3C => some .reserved3C
  | _ => none

/-- The register an access reaches: 32 bits at a word-aligned offset of the window, and nothing else (`10_state.md` R40). -/
def accessedReg (offset bytes : Nat) : Option Reg := if bytes = 4 then regAt offset else none

/-- What a register read returns (`10_state.md` R24 to R38). -/
def readReg (r : Reg) (s : State) : Word :=
  match r with
  | .id => 0x5A495749
  | .ctrl => 0#31 ++ BitVec.ofBool s.irqEn
  | .status => statusWord s
  | .cmd => s.cmd
  | .src => s.src
  | .dst => s.dst
  | .len => s.len
  | .dim => s.height ++ s.width
  | .offset => s.offset
  | .gainR => 0#16 ++ s.gainR
  | .gainG => 0#16 ++ s.gainG
  | .gainB => 0#16 ++ s.gainB
  | .outLen => s.outLen
  | .maxval => 0#16 ++ s.maxval
  | .reserved38 => 0
  | .reserved3C => 0

/-- A write of CTRL (`10_state.md` R25). -/
def writeCtrl (v : Word) (s : State) : State :=
  if v.getLsbD 1 then State.softReset s else { s with irqEn := v.getLsbD 0 }

/-- A write of STATUS: write 1 to clear DONE and ERR (`10_state.md` R35). -/
def writeStatus (v : Word) (s : State) : State :=
  { s with done := s.done && !v.getLsbD 1, err := s.err && !v.getLsbD 2 }

/-- A register write while BUSY = 0 (`10_state.md` R24 to R38, R41). -/
def writeRegIdle (r : Reg) (v : Word) (s : State) : State :=
  match r with
  | .id => s
  | .ctrl => writeCtrl v s
  | .status => writeStatus v s
  | .cmd => State.issue v s
  | .src => { s with src := v }
  | .dst => { s with dst := v }
  | .len => { s with len := v }
  | .dim => { s with width := v.extractLsb' 0 16, height := v.extractLsb' 16 16 }
  | .offset => { s with offset := v }
  | .gainR => { s with gainR := v.extractLsb' 0 16 }
  | .gainG => { s with gainG := v.extractLsb' 0 16 }
  | .gainB => { s with gainB := v.extractLsb' 0 16 }
  | .outLen => s
  | .maxval => s
  | .reserved38 => s
  | .reserved3C => s

/-- A register write: ignored while BUSY = 1 (`10_state.md` R39). -/
def writeReg (r : Reg) (v : Word) (s : State) : State := if s.busy then s else writeRegIdle r v s

/-- Handing a read's value to the host. -/
def State.returnRead (d : ReadData) (s : State) : State := { s with reads := d :: s.reads }

/-- The fault of a memory byte access, if it has one: HOST_BAD_ACCESS outside the memory (`20_memory.md` R61), HOST_RACE
while BUSY (`70_reset_and_hazards.md` R237; log entry 8). -/
def memAccessFault (addr : Nat) (s : State) : Option Fault :=
  if addr ≥ s.params.memSize then some .hostBadAccess else if s.busy then some .hostRace else none

/-- One host operation. -/
def hostStep (op : HostOp) (s : State) : State :=
  match op with
  | .regRead offset bytes =>
    match accessedReg offset bytes with
    | some r => State.returnRead (.reg r (readReg r s)) s
    | none => State.record .hostBadAccess s
  | .regWrite offset bytes v =>
    match accessedReg offset bytes with
    | some r => writeReg r v s
    | none => State.record .hostBadAccess s
  | .memRead addr =>
    match memAccessFault addr s with
    | some f => State.record f s
    | none => State.returnRead (.mem addr (Memory.read s.mem addr)) s
  | .memWrite addr v =>
    match memAccessFault addr s with
    | some f => State.record f s
    | none => State.store addr [v] s

end Sys2Proof.Machine
end

