-- ==== Sys2Proof/WellFormed.lean ====
section
/-! DEFINITION. The accepted field values of each command, as the table of `30_encoding.md` R92 gives them (with R84 for
HZ at bpp 16): a command is well-formed when steps 3 to 7 of `60_exceptions.md` R202 find nothing (R94). -/

namespace Sys2Proof

/-- The CH field of a command that takes 1 or 3 channels (`30_encoding.md` R86). -/
def channelsLegal (ch : BitVec 2) : Bool := ch == 1 || ch == 3

/-- The BPP and HZ fields of a BitUnpacker command (`30_encoding.md` R83, R84): a depth, and not 16 with HZ = 1. -/
def unpackDepthLegal (bpp : Bpp) (hz : Bool) : Bool :=
  match bpp with
  | .depth8 => true
  | .depth12 => true
  | .depth16 => !hz
  | .noDepth => false

/-- The BPP field of NORM8 and DEMOSAIC: 8 or 16 (`30_encoding.md` R92). -/
def elementDepthLegal : Bpp → Bool
  | .depth8 => true
  | .depth12 => false
  | .depth16 => true
  | .noDepth => false

/-- The values `30_encoding.md` R92 accepts for each field a command uses. -/
def Instr.wellFormed : Instr → Bool
  | .endian group => group != 0
  | .unpack8 bpp hz ch => unpackDepthLegal bpp hz && channelsLegal ch
  | .unpack16 bpp hz ch => unpackDepthLegal bpp hz && channelsLegal ch
  | .stretch16 bpp hz ch => unpackDepthLegal bpp hz && channelsLegal ch
  | .window8 bpp hz mode ch => unpackDepthLegal bpp hz && decide (mode.toNat ≤ 5) && channelsLegal ch
  | .norm8 bpp ch => elementDepthLegal bpp && channelsLegal ch
  | .gain bpp ch _ => bpp == .depth8 && ch == 1
  | .demosaic bpp ch _ _ => elementDepthLegal bpp && ch == 1

end Sys2Proof
end

