-- ==== Sys2Proof/Decode.lean ====
section
/-! DEFINITION. Decoding a CMD32 word (`30_encoding.md` R94), total on every word and rejecting by name, and the encoder
(R97). The field places are R81's, the opcode values R82's, the match and mask words R93's. -/

namespace Sys2Proof

/-- Why a word spells no command (`30_encoding.md` R94). -/
inductive DecodeError where
  /-- OP is not in 0x1 .. 0x8. -/
  | cfgOpcode
  /-- A reserved bit or a field the opcode does not use is nonzero. -/
  | cfgReserved
deriving DecidableEq, Repr

/-- OP, bits 3:0 (`30_encoding.md` R81). -/
def fieldOp (w : Word) : BitVec 4 := w.extractLsb' 0 4
/-- BPP, bits 5:4. -/
def fieldBpp (w : Word) : BitVec 2 := w.extractLsb' 4 2
/-- HZ, bit 6. -/
def fieldHz (w : Word) : Bool := w.getLsbD 6
/-- MODE, bits 10:8. -/
def fieldMode (w : Word) : BitVec 3 := w.extractLsb' 8 3
/-- CH, bits 13:12. -/
def fieldCh (w : Word) : BitVec 2 := w.extractLsb' 12 2
/-- LAYOUT, bits 15:14. -/
def fieldLayout (w : Word) : BitVec 2 := w.extractLsb' 14 2
/-- TARGET, bit 16. -/
def fieldTarget (w : Word) : Bool := w.getLsbD 16
/-- GROUP, bits 23:20. -/
def fieldGroup (w : Word) : BitVec 4 := w.extractLsb' 20 4

/-- BPP codes (`30_encoding.md` R83). -/
def bppOfCode (c : BitVec 2) : Bpp :=
  match c.toNat with
  | 0 => .depth8
  | 1 => .depth12
  | 2 => .depth16
  | _ => .noDepth

def codeOfBpp : Bpp → Nat
  | .depth8 => 0
  | .depth12 => 1
  | .depth16 => 2
  | .noDepth => 3

/-- LAYOUT codes (`30_encoding.md` R87). -/
def layoutOfCode (c : BitVec 2) : Layout :=
  match c.toNat with
  | 0 => .gbrg
  | 1 => .grbg
  | 2 => .bggr
  | _ => .rggb

def codeOfLayout : Layout → Nat
  | .gbrg => 0
  | .grbg => 1
  | .bggr => 2
  | .rggb => 3

/-- TARGET codes (`30_encoding.md` R88). -/
def targetOfCode (b : Bool) : Target := if b then .rgb else .gray

def codeOfTarget : Target → Nat
  | .gray => 0
  | .rgb => 1

/-- The opcode map (`30_encoding.md` R82). -/
def mnemonicOfOp (op : BitVec 4) : Option Mnemonic :=
  match op.toNat with
  | 1 => some .endian
  | 2 => some .unpack8
  | 3 => some .unpack16
  | 4 => some .stretch16
  | 5 => some .window8
  | 6 => some .norm8
  | 7 => some .gain
  | 8 => some .demosaic
  | _ => none

/-- The opcode value of a mnemonic (`30_encoding.md` R82). -/
def opOfMnemonic : Mnemonic → Nat
  | .endian => 1
  | .unpack8 => 2
  | .unpack16 => 3
  | .stretch16 => 4
  | .window8 => 5
  | .norm8 => 6
  | .gain => 7
  | .demosaic => 8

/-- The match words (`30_encoding.md` R93). -/
def rowMatch : Mnemonic → Word
  | .endian => 0x00000001
  | .unpack8 => 0x00000002
  | .unpack16 => 0x00000003
  | .stretch16 => 0x00000004
  | .window8 => 0x00000005
  | .norm8 => 0x00000006
  | .gain => 0x00000007
  | .demosaic => 0x00000008

/-- The mask words (`30_encoding.md` R93). -/
def rowMask : Mnemonic → Word
  | .endian => 0xFF0FFFFF
  | .unpack8 => 0xFFFFCF8F
  | .unpack16 => 0xFFFFCF8F
  | .stretch16 => 0xFFFFCF8F
  | .window8 => 0xFFFFC88F
  | .norm8 => 0xFFFFCFCF
  | .gain => 0xFFFF0FCF
  | .demosaic => 0xFFFE0FCF

/-- The command that a word of a row spells, from the fields the row uses (`30_encoding.md` R92). -/
def spell (w : Word) : Mnemonic → Instr
  | .endian => .endian (fieldGroup w)
  | .unpack8 => .unpack8 (bppOfCode (fieldBpp w)) (fieldHz w) (fieldCh w)
  | .unpack16 => .unpack16 (bppOfCode (fieldBpp w)) (fieldHz w) (fieldCh w)
  | .stretch16 => .stretch16 (bppOfCode (fieldBpp w)) (fieldHz w) (fieldCh w)
  | .window8 => .window8 (bppOfCode (fieldBpp w)) (fieldHz w) (fieldMode w) (fieldCh w)
  | .norm8 => .norm8 (bppOfCode (fieldBpp w)) (fieldCh w)
  | .gain => .gain (bppOfCode (fieldBpp w)) (fieldCh w) (layoutOfCode (fieldLayout w))
  | .demosaic =>
    .demosaic (bppOfCode (fieldBpp w)) (fieldCh w) (layoutOfCode (fieldLayout w)) (targetOfCode (fieldTarget w))

/-- Decoding (`30_encoding.md` R94; steps 1 and 2 of `60_exceptions.md` R202). -/
def decode (w : Word) : Except DecodeError Instr :=
  match mnemonicOfOp (fieldOp w) with
  | none => .error .cfgOpcode
  | some m => if w &&& rowMask m = rowMatch m then .ok (spell w m) else .error .cfgReserved

/-- `OP | BPPcode<<4 | hz<<6 | mode<<8 | ch<<12 | LAYOUTcode<<14 | TARGETcode<<16 | group<<20` (`30_encoding.md` R97). -/
def packFields (op bpp hz mode ch layout target group : Nat) : Word :=
  BitVec.ofNat 32
    (op ||| bpp <<< 4 ||| hz <<< 6 ||| mode <<< 8 ||| ch <<< 12 ||| layout <<< 14 ||| target <<< 16 ||| group <<< 20)

/-- The CMD32 word of a command (`30_encoding.md` R97): the fields the opcode does not use are 0 (R92). -/
def encode : Instr → Word
  | .endian group => packFields (opOfMnemonic .endian) 0 0 0 0 0 0 group.toNat
  | .unpack8 bpp hz ch => packFields (opOfMnemonic .unpack8) (codeOfBpp bpp) hz.toNat 0 ch.toNat 0 0 0
  | .unpack16 bpp hz ch => packFields (opOfMnemonic .unpack16) (codeOfBpp bpp) hz.toNat 0 ch.toNat 0 0 0
  | .stretch16 bpp hz ch => packFields (opOfMnemonic .stretch16) (codeOfBpp bpp) hz.toNat 0 ch.toNat 0 0 0
  | .window8 bpp hz mode ch => packFields (opOfMnemonic .window8) (codeOfBpp bpp) hz.toNat mode.toNat ch.toNat 0 0 0
  | .norm8 bpp ch => packFields (opOfMnemonic .norm8) (codeOfBpp bpp) 0 0 ch.toNat 0 0 0
  | .gain bpp ch layout => packFields (opOfMnemonic .gain) (codeOfBpp bpp) 0 0 ch.toNat (codeOfLayout layout) 0 0
  | .demosaic bpp ch layout target =>
    packFields (opOfMnemonic .demosaic) (codeOfBpp bpp) 0 0 ch.toNat (codeOfLayout layout) (codeOfTarget target) 0

/-- The command word whose low `nbits` bits are `w` and whose other bits are 0. A command is one 32-bit word
(`30_encoding.md` R80), handed over whole by a register write, so there is no byte order to lay out. -/
def tableWord (nbits w : Nat) : Word := BitVec.ofNat 32 (w % 2 ^ nbits)

/-- What the decoder reads from a word of the opcode table. -/
def decodeTableWord (nbits w : Nat) : Option Instr :=
  match decode (tableWord nbits w) with
  | .ok i => some i
  | .error _ => none

end Sys2Proof
end

