-- ==== Sys2Proof/Machine/RangeReduce.lean ====
section
/-! DEFINITION. DynamicRangeReducer: Normalize and NORM8 (`42_range_reduce.md`). -/

namespace Sys2Proof.Machine

/-- Pass 1 of Normalize: the maximum, "initial candidate = first sample" (`42_range_reduce.md` R161). -/
def maxSample : List Nat → Nat
  | [] => 0
  | s0 :: rest => rest.foldl (fun mx x => if x > mx then x else mx) s0

/-- RoundDiv(a, b) (`42_range_reduce.md` R161). -/
def roundDiv (r : NormRound) (a b : Nat) : Nat :=
  match r with
  | .halfUp => (2 * a + b) / (2 * b)
  | .trunc => a / b

/-- The scaling of one sample by the maximum; no division when the maximum is 0 (`42_range_reduce.md` R161, R163). -/
def scaleSample (r : NormRound) (mx x : Nat) : Nat := if mx = 0 then 0 else roundDiv r (x * 255) mx

/-- The output values of Normalize (`42_range_reduce.md` R161). -/
def normalize (r : NormRound) (xs : List Nat) : List Nat := xs.map (scaleSample r (maxSample xs))

/-- Normalize's two effects and the end of the command: the bytes at DST, and MAXVAL. -/
def storeNormalized (xs : List Nat) (s : State) : State :=
  State.finish xs.length
    (State.setMaxval (maxSample xs) (State.store s.dst.toNat (byteList (normalize s.params.normRound xs)) s))

/-- The checks of NORM8 (`60_exceptions.md` R202). -/
def norm8Checks (bpp : Bpp) (ch : BitVec 2) (s : State) : List Check :=
  [checkBpp [.depth8, .depth16] bpp, checkChannels ch, checkDim s,
    checkLength (sampleCount ch s * bppBits bpp / 8) s, checkSource s, checkDestination (sampleCount ch s) s]

/-- The pseudocode of NORM8 (`42_range_reduce.md` R162). -/
def norm8Body (bpp : Bpp) (ch : BitVec 2) (s : State) : State :=
  storeNormalized (elements bpp (sampleCount ch s) s) s

/-- NORM8 (`42_range_reduce.md` R162). -/
def execNorm8 (bpp : Bpp) (ch : BitVec 2) (s : State) : Host.Outcome State Fault Refusal :=
  runCommand (norm8Checks bpp ch s) (norm8Body bpp ch) s

end Sys2Proof.Machine
end

