-- ==== Sys2Proof/Machine/BitUnpack.lean ====
section
/-! DEFINITION. BitUnpacker: UNPACK8, UNPACK16, STRETCH16 and WINDOW8 (`41_bitunpack.md`). -/

namespace Sys2Proof.Machine

/-- The checks of UNPACK8, UNPACK16 and STRETCH16 with their output length (`60_exceptions.md` R202). -/
def packedChecks (bpp : Bpp) (hz : Bool) (ch : BitVec 2) (outLen : Nat) (s : State) : List Check :=
  [checkBpp [.depth8, .depth12, .depth16] bpp, checkHz16 bpp hz, checkChannels ch, checkDim s, checkPacked bpp hz ch s,
    checkSource s, checkDestination outLen s]

/-- A byte per sample at DST (`41_bitunpack.md` R130, R145). -/
def storeBytes (f : Nat → Nat) (xs : List Nat) (s : State) : State :=
  State.finish xs.length (State.store s.dst.toNat (byteList (xs.map f)) s)

/-- A word per sample at DST, in WORD_ORDER (`41_bitunpack.md` R135, R140). -/
def storeWords (f : Nat → Nat) (xs : List Nat) (s : State) : State :=
  State.finish (2 * xs.length) (State.store s.dst.toNat (wordListBytes s.params.wordOrder (xs.map f)) s)

/-- UNPACK8's value of a sample: its high 8 bits (`41_bitunpack.md` R130). -/
def highByte (bpp : Bpp) (x : Nat) : Nat :=
  match bpp with
  | .depth8 => x
  | .depth12 => x >>> 4
  | .depth16 => x >>> 8
  | .noDepth => 0

/-- The pseudocode of UNPACK8 (`41_bitunpack.md` R130). -/
def unpack8Body (bpp : Bpp) (hz : Bool) (ch : BitVec 2) (s : State) : State :=
  storeBytes (highByte bpp) (samples bpp hz ch s) s

/-- UNPACK8 (`41_bitunpack.md` R130). -/
def execUnpack8 (bpp : Bpp) (hz : Bool) (ch : BitVec 2) (s : State) : Host.Outcome State Fault Refusal :=
  runCommand (packedChecks bpp hz ch (sampleCount ch s) s) (unpack8Body bpp hz ch) s

/-- UNPACK16's value of a sample: value-preserving, EXT8TO16 for a byte (`41_bitunpack.md` R135). -/
def widen (e : Ext8To16) (bpp : Bpp) (x : Nat) : Nat :=
  match bpp, e with
  | .depth8, .zext => x
  | .depth8, .dup => x * 257
  | _, _ => x

/-- The pseudocode of UNPACK16 (`41_bitunpack.md` R135). -/
def unpack16Body (bpp : Bpp) (hz : Bool) (ch : BitVec 2) (s : State) : State :=
  storeWords (widen s.params.ext8To16 bpp) (samples bpp hz ch s) s

/-- UNPACK16 (`41_bitunpack.md` R135). -/
def execUnpack16 (bpp : Bpp) (hz : Bool) (ch : BitVec 2) (s : State) : Host.Outcome State Fault Refusal :=
  runCommand (packedChecks bpp hz ch (2 * sampleCount ch s) s) (unpack16Body bpp hz ch) s

/-- STRETCH16's value of a sample: scaled to 16 bits (`41_bitunpack.md` R140). -/
def stretch (bpp : Bpp) (x : Nat) : Nat :=
  match bpp with
  | .depth8 => x * 256
  | .depth12 => x * 16
  | _ => x

/-- The pseudocode of STRETCH16 (`41_bitunpack.md` R140). -/
def stretch16Body (bpp : Bpp) (hz : Bool) (ch : BitVec 2) (s : State) : State :=
  storeWords (stretch bpp) (samples bpp hz ch s) s

/-- STRETCH16 (`41_bitunpack.md` R140). -/
def execStretch16 (bpp : Bpp) (hz : Bool) (ch : BitVec 2) (s : State) : Host.Outcome State Fault Refusal :=
  runCommand (packedChecks bpp hz ch (2 * sampleCount ch s) s) (stretch16Body bpp hz ch) s

/-- Window(bpp, m, s) for m in 0 .. 4 (`41_bitunpack.md` R146). -/
def window (p : Params) (bpp : Bpp) (mode x : Nat) : Nat :=
  match bpp with
  | .depth8 => x
  | .depth12 => x >>> (4 - mode) &&& 0xFF
  | .depth16 => x >>> win16Shift p mode &&& 0xFF
  | .noDepth => 0

/-- The checks of WINDOW8: those of UNPACK8, and step 5 before the channel count's (`60_exceptions.md` R202). -/
def window8Checks (bpp : Bpp) (hz : Bool) (mode : BitVec 3) (ch : BitVec 2) (s : State) : List Check :=
  [checkBpp [.depth8, .depth12, .depth16] bpp, checkHz16 bpp hz, checkMode mode, checkChannels ch, checkDim s,
    checkPacked bpp hz ch s, checkSource s, checkDestination (sampleCount ch s) s]

/-- The pseudocode of WINDOW8 (`41_bitunpack.md` R145, R147). -/
def window8Body (bpp : Bpp) (hz : Bool) (mode : BitVec 3) (ch : BitVec 2) (s : State) : State :=
  if mode.toNat ≤ 4 then storeBytes (window s.params bpp mode.toNat) (samples bpp hz ch s) s
  else storeNormalized (samples bpp hz ch s) s

/-- WINDOW8 (`41_bitunpack.md` R145). -/
def execWindow8 (bpp : Bpp) (hz : Bool) (mode : BitVec 3) (ch : BitVec 2) (s : State) : Host.Outcome State Fault Refusal :=
  runCommand (window8Checks bpp hz mode ch s) (window8Body bpp hz mode ch) s

end Sys2Proof.Machine
end

