-- ==== Sys2Proof/Machine/Demosaic.lean ====
section
/-! DEFINITION. BayerDemosaicer: DEMOSAIC around the free DemosaicKernel (`43_demosaic.md`, `00_scope.md` R9). -/

namespace Sys2Proof.Machine

/-- DemosaicKernel(layout, target, depth, W, H, s) (`00_scope.md` R9): W*H*C free values, each below 2^depth, and nothing
else is known of them. -/
def demosaicKernel (l : Layout) (t : Target) (depth w h : Nat) (xs : List Nat) : List Nat :=
  (List.range (w * h * targetChannels t)).map fun j => Config.demosaicSample l t depth w h xs j % 2 ^ depth

/-- W*H*C*bpp/8, the output length (`43_demosaic.md` R171). -/
def demosaicLength (bpp : Bpp) (t : Target) (s : State) : Nat := pixelCount s * targetChannels t * bppBits bpp / 8

/-- The bytes of a list of elements: bytes, or words in WORD_ORDER (`43_demosaic.md` R171). -/
def elementBytes (o : WordOrder) (bpp : Bpp) (vs : List Nat) : List Byte :=
  match bpp with
  | .depth16 => wordListBytes o vs
  | _ => byteList vs

/-- The checks of DEMOSAIC (`60_exceptions.md` R202). -/
def demosaicChecks (bpp : Bpp) (ch : BitVec 2) (target : Target) (s : State) : List Check :=
  [checkBpp [.depth8, .depth16] bpp, checkOneChannel ch, checkEvenDim s,
    checkLength (pixelCount s * bppBits bpp / 8) s, checkSource s, checkDestination (demosaicLength bpp target s) s]

/-- The pseudocode of DEMOSAIC (`43_demosaic.md` R171). -/
def demosaicBody (bpp : Bpp) (layout : Layout) (target : Target) (s : State) : State :=
  let out := demosaicKernel layout target (bppBits bpp) s.width.toNat s.height.toNat (elements bpp (pixelCount s) s)
  State.finish (demosaicLength bpp target s) (State.store s.dst.toNat (elementBytes s.params.wordOrder bpp out) s)

/-- DEMOSAIC (`43_demosaic.md` R171). -/
def execDemosaic (bpp : Bpp) (ch : BitVec 2) (layout : Layout) (target : Target) (s : State) :
    Host.Outcome State Fault Refusal :=
  runCommand (demosaicChecks bpp ch target s) (demosaicBody bpp layout target) s

end Sys2Proof.Machine
end

