-- ==== Sys2Proof/Machine/Endian.lean ====
section
/-! DEFINITION. EndianNormalizer: ENDIAN (`40_endian.md`). -/

namespace Sys2Proof.Machine

/-- Byte t of the reversed region at an address: with t = k*G + j, byte k*G + (G - 1 - j) of the region
(`40_endian.md` R111). -/
def reversedByte (m : Memory) (base g t : Nat) : Byte := Memory.read m (base + (t / g * g + (g - 1 - t % g)))

/-- The reversed region of n bytes. -/
def reversedGroups (m : Memory) (base g n : Nat) : List Byte := (List.range n).map (reversedByte m base g)

/-- The checks of ENDIAN (`60_exceptions.md` R202). -/
def endianChecks (group : BitVec 4) (s : State) : List Check := [checkGroup group, checkGroups group s, checkSource s]

/-- The pseudocode of ENDIAN (`40_endian.md` R111). -/
def endianBody (group : BitVec 4) (s : State) : State :=
  let n := s.len.toNat - s.offset.toNat
  let base := s.src.toNat + s.offset.toNat
  State.finish n (State.store base (reversedGroups s.mem base group.toNat n) s)

/-- ENDIAN (`40_endian.md` R111). -/
def execEndian (group : BitVec 4) (s : State) : Host.Outcome State Fault Refusal :=
  runCommand (endianChecks group s) (endianBody group) s

end Sys2Proof.Machine
end

