-- ==== Sys2Proof/Machine/Gain.lean ====
section
/-! DEFINITION. ChannelGainAdjuster: GAIN (`44_gain.md`). -/

namespace Sys2Proof.Machine

/-- RoundQ(p): the value p / 1024 as an integer (`44_gain.md` R181). Lean's `/` and `%` on Int by a positive number are the
floor division and the remainder in 0 .. b - 1 of `00_scope.md` R11. -/
def roundQ (r : GainRound) (p : Int) : Int :=
  match r with
  | .halfUp => (p + 512) / 1024
  | .halfEven =>
    let q := p / 1024
    let rem := p % 1024
    if rem > 512 ∨ (rem = 512 ∧ q % 2 = 1) then q + 1 else q
  | .trunc => if p ≥ 0 then p / 1024 else -((-p) / 1024)

/-- clamp(0, 255, v) = min(255, max(0, v)) (`00_scope.md` R11, `44_gain.md` R184). -/
def clampByte (v : Int) : Nat := (min 255 (max 0 v)).toNat

/-- The output of GAIN at raster index i (`44_gain.md` R181, `30_encoding.md` R91): row i div W, column i mod W. -/
def gainSample (l : Layout) (s : State) (i : Nat) : Nat :=
  let w := s.width.toNat
  clampByte (roundQ s.params.gainRound (Memory.rd8 s.mem (s.src.toNat + i) * siteGain s (siteOf l (i / w) (i % w))))

/-- The checks of GAIN (`60_exceptions.md` R202). -/
def gainChecks (bpp : Bpp) (ch : BitVec 2) (s : State) : List Check :=
  [checkBpp [.depth8] bpp, checkOneChannel ch, checkEvenDim s, checkGains s, checkLength (pixelCount s) s,
    checkSource s, checkDestination (pixelCount s) s]

/-- The pseudocode of GAIN (`44_gain.md` R181). -/
def gainBody (layout : Layout) (s : State) : State :=
  let n := pixelCount s
  State.finish n (State.store s.dst.toNat (byteList ((List.range n).map (gainSample layout s))) s)

/-- GAIN (`44_gain.md` R181). -/
def execGain (bpp : Bpp) (ch : BitVec 2) (layout : Layout) (s : State) : Host.Outcome State Fault Refusal :=
  runCommand (gainChecks bpp ch s) (gainBody layout) s

end Sys2Proof.Machine
end

