-- ==== Sys2Proof/Machine/Dispatch.lean ====
section
/-! DEFINITION. The meaning of each command: the completion step of a command that decoding accepted. -/

namespace Sys2Proof.Machine

def exec (i : Instr) (s : State) : Host.Outcome State Fault Refusal :=
  match i with
  | .endian group => Sys2Proof.Machine.execEndian group s
  | .unpack8 bpp hz ch => Sys2Proof.Machine.execUnpack8 bpp hz ch s
  | .unpack16 bpp hz ch => Sys2Proof.Machine.execUnpack16 bpp hz ch s
  | .stretch16 bpp hz ch => Sys2Proof.Machine.execStretch16 bpp hz ch s
  | .window8 bpp hz mode ch => Sys2Proof.Machine.execWindow8 bpp hz mode ch s
  | .norm8 bpp ch => Sys2Proof.Machine.execNorm8 bpp ch s
  | .gain bpp ch layout => Sys2Proof.Machine.execGain bpp ch layout s
  | .demosaic bpp ch layout target => Sys2Proof.Machine.execDemosaic bpp ch layout target s

end Sys2Proof.Machine
end

