-- ==== Sys2Proof/Machine/Engine.lean ====
section
/-! DEFINITION. The engine's turn: the completion step of the issued command (`60_exceptions.md` R205, R206). -/

namespace Sys2Proof.Machine

/-- The result code of a word that spells no command (`60_exceptions.md` R202 steps 1 and 2). -/
def decodeErrorCode : DecodeError → ResultCode
  | .cfgOpcode => .cfgOpcode
  | .cfgReserved => .cfgReserved

/-- The completion step of a command word (`60_exceptions.md` R206): steps 1 and 2 of R202 by the decoder, the rest by the
command's meaning. -/
def completeWord (w : Word) (s : State) : Host.Outcome State Fault Refusal :=
  match decode w with
  | .error e => .next (State.raise (decodeErrorCode e) s)
  | .ok i => exec i s

/-- The engine's turn: its step is enabled exactly when BUSY = 1 (`60_exceptions.md` R205); else it does nothing
(`70_reset_and_hazards.md` R232; log entry 10). -/
def engineStep (s : State) : Host.Outcome State Fault Refusal := if s.busy then completeWord s.cmd s else .next s

end Sys2Proof.Machine
end

