-- ==== Sys2Proof/Machine/Step.lean ====
section
/-! DEFINITION. One step: the next event of the total order of `20_memory.md` R72. -/

namespace Sys2Proof.Machine

/-- One atomic event (`20_memory.md` R72): the first of the events to come, or, with none left, the engine's turn (its step
is taken eventually, `60_exceptions.md` R205; log entry 1). -/
def step (s : State) : Host.Outcome State Fault Refusal :=
  match s.events with
  | [] => engineStep s
  | .engine :: rest => engineStep { s with events := rest }
  | .host op :: rest => .next (hostStep op { s with events := rest })

/-- `s` with a command word just issued (`10_state.md` R26) and the engine to move next, so that the next step completes
exactly that command (log entry 2). -/
def State.withFetchWord (s : State) (nbits w : Nat) : State :=
  { State.issue (tableWord nbits w) s with events := .engine :: s.events }

end Sys2Proof.Machine
end

