-- ==== Sys2Proof/Machine/Assembler.lean ====
section
/-! DEFINITION. The assembler, on tokens and on the text of a line, its defaults and pseudo-commands (`30_encoding.md` R97,
R98), and the host-program operations (R99). Log entry 16. -/

namespace Sys2Proof.Machine

/-- The keys of a command line (`30_encoding.md` R97). -/
inductive AsmKey where
  | bpp
  | hz
  | mode
  | ch
  | layout
  | target
  | group
deriving DecidableEq, Repr

/-- The value of a key: a number, a layout name or a target name. -/
inductive AsmValue where
  | num (n : Nat)
  | layout (l : Layout)
  | target (t : Target)
deriving DecidableEq, Repr

/-- The keys an opcode uses (`30_encoding.md` R92, R97). -/
def usedKeys : Mnemonic → List AsmKey
  | .endian => [.group]
  | .unpack8 => [.bpp, .hz, .ch]
  | .unpack16 => [.bpp, .hz, .ch]
  | .stretch16 => [.bpp, .hz, .ch]
  | .window8 => [.bpp, .hz, .mode, .ch]
  | .norm8 => [.bpp, .ch]
  | .gain => [.bpp, .ch, .layout]
  | .demosaic => [.bpp, .ch, .layout, .target]

/-- Whether a value stands in a key's list (`30_encoding.md` R97). -/
def valueListed : AsmKey → AsmValue → Bool
  | .bpp, .num n => n == 8 || n == 12 || n == 16
  | .hz, .num n => decide (n ≤ 1)
  | .mode, .num n => decide (n ≤ 5)
  | .ch, .num n => n == 1 || n == 3
  | .layout, .layout _ => true
  | .target, .target _ => true
  | .group, .num n => decide (1 ≤ n ∧ n ≤ 15)
  | _, _ => false

/-- The value given for a key, or its default (`30_encoding.md` R97); `group` has none. -/
def keyNumber (args : List (AsmKey × AsmValue)) (k : AsmKey) (dflt : Nat) : Nat :=
  match args.lookup k with
  | some (.num n) => n
  | _ => dflt

def keyLayout (args : List (AsmKey × AsmValue)) : Layout :=
  match args.lookup .layout with
  | some (.layout l) => l
  | _ => .gbrg

def keyTarget (args : List (AsmKey × AsmValue)) : Target :=
  match args.lookup .target with
  | some (.target t) => t
  | _ => .gray

/-- The BPP field of a depth written as a number. -/
def bppOfNumber (n : Nat) : Bpp :=
  match n with
  | 8 => .depth8
  | 12 => .depth12
  | 16 => .depth16
  | _ => .noDepth

/-- The command that a mnemonic and its keys name. -/
def asmCommand (m : Mnemonic) (args : List (AsmKey × AsmValue)) : Instr :=
  let bpp := bppOfNumber (keyNumber args .bpp 8)
  let hz := keyNumber args .hz 0 == 1
  let mode := BitVec.ofNat 3 (keyNumber args .mode 0)
  let ch := BitVec.ofNat 2 (keyNumber args .ch 1)
  match m with
  | .endian => .endian (BitVec.ofNat 4 (keyNumber args .group 0))
  | .unpack8 => .unpack8 bpp hz ch
  | .unpack16 => .unpack16 bpp hz ch
  | .stretch16 => .stretch16 bpp hz ch
  | .window8 => .window8 bpp hz mode ch
  | .norm8 => .norm8 bpp ch
  | .gain => .gain bpp ch (keyLayout args)
  | .demosaic => .demosaic bpp ch (keyLayout args) (keyTarget args)

/-- The assembler (`30_encoding.md` R97): each key at most once, only keys the opcode uses, values of the lists, and
values the opcode accepts; else it refuses. -/
def assemble (m : Mnemonic) (args : List (AsmKey × AsmValue)) : Option Word :=
  if (args.map Prod.fst).Nodup ∧ (args.all fun a => (usedKeys m).contains a.1 && valueListed a.1 a.2) = true ∧
      (asmCommand m args).wellFormed = true
  then some (encode (asmCommand m args)) else none

/-- COPY8 (`30_encoding.md` R98). -/
def pseudoCopy8 (ch : BitVec 2) : Instr := .unpack8 .depth8 false ch

/-- SWAP16 (`30_encoding.md` R98). -/
def pseudoSwap16 : Instr := .endian 2

/-- HIGHBYTE16 (`30_encoding.md` R98). -/
def pseudoHighByte16 (ch : BitVec 2) : Instr := .unpack8 .depth16 false ch

/-- NORM12 (`30_encoding.md` R98). -/
def pseudoNorm12 (hz : Bool) (ch : BitVec 2) : Instr := .window8 .depth12 hz 5 ch

/-- The pseudo-commands of `30_encoding.md` R98. -/
inductive Pseudo where
  | copy8
  | swap16
  | highByte16
  | norm12
deriving DecidableEq, Repr

/-- The keys a pseudo-command takes. -/
def pseudoKeys : Pseudo → List AsmKey
  | .copy8 => [.ch]
  | .swap16 => []
  | .highByte16 => [.ch]
  | .norm12 => [.hz, .ch]

/-- The expansion of a pseudo-command with its keys (`30_encoding.md` R98). -/
def pseudoCommand (p : Pseudo) (args : List (AsmKey × AsmValue)) : Instr :=
  let ch := BitVec.ofNat 2 (keyNumber args .ch 1)
  match p with
  | .copy8 => pseudoCopy8 ch
  | .swap16 => pseudoSwap16
  | .highByte16 => pseudoHighByte16 ch
  | .norm12 => pseudoNorm12 (keyNumber args .hz 0 == 1) ch

/-- Assembling a pseudo-command, under the rules of `assemble`. -/
def assemblePseudo (p : Pseudo) (args : List (AsmKey × AsmValue)) : Option Word :=
  if (args.map Prod.fst).Nodup ∧ (args.all fun a => (pseudoKeys p).contains a.1 && valueListed a.1 a.2) = true ∧
      (pseudoCommand p args).wellFormed = true
  then some (encode (pseudoCommand p args)) else none

/-- The spellings of the mnemonics (`30_encoding.md` R82). -/
def mnemonicNames : List (String × Mnemonic) :=
  [("ENDIAN", .endian), ("UNPACK8", .unpack8), ("UNPACK16", .unpack16), ("STRETCH16", .stretch16), ("WINDOW8", .window8),
    ("NORM8", .norm8), ("GAIN", .gain), ("DEMOSAIC", .demosaic)]

/-- The spellings of the pseudo-commands (`30_encoding.md` R98). -/
def pseudoNames : List (String × Pseudo) :=
  [("COPY8", .copy8), ("SWAP16", .swap16), ("HIGHBYTE16", .highByte16), ("NORM12", .norm12)]

/-- The spellings of the keys (`30_encoding.md` R97). -/
def keyNames : List (String × AsmKey) :=
  [("bpp", .bpp), ("hz", .hz), ("mode", .mode), ("ch", .ch), ("layout", .layout), ("target", .target), ("group", .group)]

/-- The spellings of the values: the names, and the numbers that some key's list holds (`30_encoding.md` R97). -/
def valueNames : List (String × AsmValue) :=
  [("GBRG", .layout .gbrg), ("GRBG", .layout .grbg), ("BGGR", .layout .bggr), ("RGGB", .layout .rggb),
    ("GRAY", .target .gray), ("RGB", .target .rgb), ("0", .num 0), ("1", .num 1), ("2", .num 2), ("3", .num 3),
    ("4", .num 4), ("5", .num 5), ("6", .num 6), ("7", .num 7), ("8", .num 8), ("9", .num 9), ("10", .num 10),
    ("11", .num 11), ("12", .num 12), ("13", .num 13), ("14", .num 14), ("15", .num 15), ("16", .num 16)]

/-- The entry of a table of spellings. -/
def spelled {α : Type} (table : List (String × α)) (cs : List Char) : Option α :=
  (table.find? fun e => e.1.toList == cs).map Prod.snd

/-- The pieces of a text between separators. -/
def pieces (sep : Char) : List Char → List (List Char)
  | [] => [[]]
  | c :: cs =>
    match pieces sep cs with
    | [] => [[c]]
    | w :: ws => if c = sep then [] :: w :: ws else (c :: w) :: ws

/-- A text without the spaces around it. -/
def trimSpaces (cs : List Char) : List Char :=
  ((cs.dropWhile fun c => c == ' ').reverse.dropWhile fun c => c == ' ').reverse

/-- One `key=value` (`30_encoding.md` R97). -/
def argOfText (cs : List Char) : Option (AsmKey × AsmValue) :=
  match pieces '=' (trimSpaces cs) with
  | [k, v] =>
    match spelled keyNames k, spelled valueNames v with
    | some k, some v => some (k, v)
    | _, _ => none
  | _ => none

/-- Every piece read, or none. -/
def argsOfPieces : List (List Char) → Option (List (AsmKey × AsmValue))
  | [] => some []
  | p :: ps =>
    match argOfText p, argsOfPieces ps with
    | some a, some as => some (a :: as)
    | _, _ => none

/-- The `key=value` list of a line, which may be empty. -/
def argsOfText (cs : List Char) : Option (List (AsmKey × AsmValue)) :=
  if cs = [] then some [] else argsOfPieces (pieces ',' cs)

/-- A hexadecimal digit. -/
def hexDigit (c : Char) : Option Nat :=
  let n := c.toNat
  if 48 ≤ n ∧ n ≤ 57 then some (n - 48)
  else if 65 ≤ n ∧ n ≤ 70 then some (n - 55)
  else if 97 ≤ n ∧ n ≤ 102 then some (n - 87)
  else none

/-- The number of a text of hexadecimal digits, read after `acc`. -/
def hexNumber : Nat → List Char → Option Nat
  | acc, [] => some acc
  | acc, c :: cs =>
    match hexDigit c with
    | some d => hexNumber (16 * acc + d) cs
    | none => none

/-- The word of `.word 0x........` (`30_encoding.md` R97): `0x` and eight digits. -/
def rawWord : List Char → Option Word
  | '0' :: 'x' :: ds => if ds.length = 8 then (hexNumber 0 ds).map (BitVec.ofNat 32) else none
  | _ => none

/-- The first word of a line, up to a space. -/
def lineName (line : List Char) : List Char := (trimSpaces line).takeWhile fun c => c != ' '

/-- The rest of a line. -/
def lineRest (line : List Char) : List Char := trimSpaces ((trimSpaces line).dropWhile fun c => c != ' ')

/-- The assembler on the text of one line: a command, a pseudo-command, or a raw word (`30_encoding.md` R97, R98). -/
def assembleLine (line : List Char) : Option Word :=
  if lineName line = ".word".toList then rawWord (lineRest line)
  else
    match argsOfText (lineRest line), spelled mnemonicNames (lineName line), spelled pseudoNames (lineName line) with
    | some args, some m, _ => assemble m args
    | some args, none, some p => assemblePseudo p args
    | _, _, _ => none

/-- `WR REG, v` (`30_encoding.md` R99). -/
def hostWr (r : Reg) (v : Word) : Event := .host (.regWrite (regOffset r) 4 v)

/-- `RD REG`. -/
def hostRd (r : Reg) : Event := .host (.regRead (regOffset r) 4)

/-- `MEMW a, [b0, b1, ...]`: byte writes at rising addresses. -/
def hostMemW (a : Nat) (bs : List Byte) : List Event :=
  (List.range bs.length).map fun i => .host (.memWrite (a + i) (bs.getD i 0))

/-- `MEMR a, n`: byte reads at rising addresses. -/
def hostMemR (a n : Nat) : List Event := (List.range n).map fun i => .host (.memRead (a + i))

/-- `ISSUE cmd`. -/
def hostIssue (i : Instr) : Event := hostWr .cmd (encode i)

/-- `POLL` (`30_encoding.md` R99), unrolled: the completion falls after `k` reads of STATUS that return DONE = 0, and the
next read returns DONE = 1. -/
def hostPoll (k : Nat) : List Event := List.replicate k (hostRd .status) ++ [.engine, hostRd .status]

/-- `RUN cmd`: `ISSUE cmd`, then `POLL`. -/
def hostRun (i : Instr) (k : Nat) : List Event := hostIssue i :: hostPoll k

end Sys2Proof.Machine
end

