-- ==== Sys2Proof/Safety.lean ====
section
/-! DEFINITION. What counts as a safe state and a safe run, and the terms the claims use: the fault set, the end of a run,
the invariant of the machine, when a command succeeds (`60_exceptions.md` R202 with no failing step), and what a completed
command leaves. -/

namespace Sys2Proof.Machine

/-- No host-protocol fault is recorded: every claim about a run assumes it (`70_reset_and_hazards.md` R237). -/
abbrev State.noFault (s : State) : Prop := s.faults.hostBadAccess = false ∧ s.faults.hostRace = false

/-- The end of a run (`70_reset_and_hazards.md` R240): the host has no operation left and no command is in flight. -/
abbrev State.over (s : State) : Prop := s.events = [] ∧ s.busy = false

/-- The ERRCODE values of `60_exceptions.md` R201: "No other code is ever written to ERRCODE". -/
def legalCodes : List (BitVec 8) := [0x00, 0x01, 0x02, 0x03, 0x04, 0x05, 0x06, 0x07, 0x08, 0x09, 0x10, 0x20]

/-- The status registers agree with each other (`10_state.md` R26, R35, R36; `60_exceptions.md` R206): a command in flight
has the flags its issue left, ERR stands only beside an error code, and an error code beside OUT_LEN = 0. -/
abbrev State.statusConsistent (s : State) : Prop :=
  s.errcode ∈ legalCodes ∧
  (s.busy = true → s.done = false ∧ s.err = false ∧ s.errcode = 0) ∧
  (s.err = true → s.errcode ≠ 0) ∧
  (s.errcode ≠ 0 → s.outLen = 0) ∧
  s.outLen.toNat ≤ s.params.memSize

/-- The buffer memory is in canonical form and no byte outside 0 .. MEM_SIZE - 1 was ever written (`20_memory.md` R60,
R67). -/
abbrev State.memoryInRange (s : State) : Prop := Memory.wf s.mem ∧ ∀ c ∈ s.mem, c.1 < s.params.memSize

/-- The invariant of the machine. -/
abbrev State.inv (s : State) : Prop := s.params.wf ∧ s.memoryInRange ∧ s.statusConsistent

/-- ENDIAN passes every check (`40_endian.md` R111). -/
abbrev endianReady (group : BitVec 4) (s : State) : Prop :=
  group ≠ 0 ∧ s.offset.toNat ≤ s.len.toNat ∧ (s.len.toNat - s.offset.toNat) % group.toNat = 0 ∧
  s.src.toNat + s.len.toNat ≤ s.params.memSize

/-- A BitUnpacker command with an output of `outLen` bytes passes every check (`41_bitunpack.md` R130, R135, R140), but for
WINDOW8's on MODE. -/
abbrev packedReady (bpp : Bpp) (hz : Bool) (ch : BitVec 2) (outLen : Nat) (s : State) : Prop :=
  unpackDepthLegal bpp hz = true ∧ channelsLegal ch = true ∧ s.width ≠ 0 ∧ s.height ≠ 0 ∧
  s.len.toNat = expectedLength bpp hz (sampleCount ch s) ∧ s.len.toNat % stride s.params bpp hz = 0 ∧
  s.src.toNat + s.len.toNat ≤ s.params.memSize ∧ s.dst.toNat + outLen ≤ s.params.memSize

/-- NORM8 passes every check (`42_range_reduce.md` R162). -/
abbrev norm8Ready (bpp : Bpp) (ch : BitVec 2) (s : State) : Prop :=
  elementDepthLegal bpp = true ∧ channelsLegal ch = true ∧ s.width ≠ 0 ∧ s.height ≠ 0 ∧
  s.len.toNat = sampleCount ch s * bppBits bpp / 8 ∧
  s.src.toNat + s.len.toNat ≤ s.params.memSize ∧ s.dst.toNat + sampleCount ch s ≤ s.params.memSize

/-- WIDTH and HEIGHT are positive and even (`44_gain.md` R180, `43_demosaic.md` R174). -/
abbrev mosaicDims (s : State) : Prop :=
  s.width ≠ 0 ∧ s.height ≠ 0 ∧ s.width.toNat % 2 = 0 ∧ s.height.toNat % 2 = 0

/-- A gain of -10.0 .. 10.0 (`10_state.md` R32). -/
abbrev gainLegal (g : Half) : Prop := -10240 ≤ g.toInt ∧ g.toInt ≤ 10240

/-- GAIN passes every check (`44_gain.md` R181). -/
abbrev gainReady (bpp : Bpp) (ch : BitVec 2) (s : State) : Prop :=
  bpp = .depth8 ∧ ch = 1 ∧ mosaicDims s ∧ gainLegal s.gainR ∧ gainLegal s.gainG ∧ gainLegal s.gainB ∧
  s.len.toNat = pixelCount s ∧
  s.src.toNat + s.len.toNat ≤ s.params.memSize ∧ s.dst.toNat + pixelCount s ≤ s.params.memSize

/-- DEMOSAIC passes every check (`43_demosaic.md` R171). -/
abbrev demosaicReady (bpp : Bpp) (ch : BitVec 2) (target : Target) (s : State) : Prop :=
  elementDepthLegal bpp = true ∧ ch = 1 ∧ mosaicDims s ∧ s.len.toNat = pixelCount s * bppBits bpp / 8 ∧
  s.src.toNat + s.len.toNat ≤ s.params.memSize ∧ s.dst.toNat + demosaicLength bpp target s ≤ s.params.memSize

/-- OutLen(op) (`60_exceptions.md` R202), and M for ENDIAN (`40_endian.md` R111). -/
def outBytes (i : Instr) (s : State) : Nat :=
  match i with
  | .endian _ => s.len.toNat - s.offset.toNat
  | .unpack8 _ _ ch => sampleCount ch s
  | .unpack16 _ _ ch => 2 * sampleCount ch s
  | .stretch16 _ _ ch => 2 * sampleCount ch s
  | .window8 _ _ _ ch => sampleCount ch s
  | .norm8 _ ch => sampleCount ch s
  | .gain _ _ _ => pixelCount s
  | .demosaic bpp _ _ target => demosaicLength bpp target s

/-- The address of the destination range (`20_memory.md` R68). -/
def outBase (i : Instr) (s : State) : Nat :=
  match i with
  | .endian _ => s.src.toNat + s.offset.toNat
  | .unpack8 _ _ _ => s.dst.toNat
  | .unpack16 _ _ _ => s.dst.toNat
  | .stretch16 _ _ _ => s.dst.toNat
  | .window8 _ _ _ _ => s.dst.toNat
  | .norm8 _ _ => s.dst.toNat
  | .gain _ _ _ => s.dst.toNat
  | .demosaic _ _ _ _ => s.dst.toNat

/-- `t` is `s` after a command that ended with OK and wrote `n` bytes at `base`: every byte outside that range, every
parameter register, the parameters, the fault set, the events and the reads stay; OUT_LEN, STATUS and MAXVAL are as
`60_exceptions.md` R206 leaves them. What the written bytes hold is said beside it. -/
def completedOk (s t : State) (base n : Nat) (mx : Half) : Prop :=
  (∀ a, a < base ∨ base + n ≤ a → Memory.read t.mem a = Memory.read s.mem a) ∧
  t = { s with
    mem := t.mem
    maxval := mx
    outLen := BitVec.ofNat 32 n
    errcode := 0
    err := false
    done := true
    busy := false }

/-- The 16-bit word at an address, its two bytes in WORD_ORDER (`20_memory.md` R64). -/
def holdsWord (o : WordOrder) (m : Memory) (a : Nat) (v : Half) : Prop :=
  match o with
  | .be => Memory.read m a = v.extractLsb' 8 8 ∧ Memory.read m (a + 1) = v.extractLsb' 0 8
  | .le => Memory.read m a = v.extractLsb' 0 8 ∧ Memory.read m (a + 1) = v.extractLsb' 8 8

end Sys2Proof.Machine
end

