-- ==== Sys2Proof/Certificates/Slice0/Obligations.lean ====
section
/-! DEFINITION. The statements for the provers. Each formalises rules of spec/ about every state and every operand; what is
assumed stands in hypotheses on the state and the operands alone. Statements about results conclude that `exec` answers the
next state the rules give, and `completedOk` says its frame. -/

open Sys2Proof Sys2Proof.Machine

namespace Sys2Proof.Claims

/-- The bits of a row's mask outside OP: the reserved bits and the fields the opcode does not use (`30_encoding.md` R93). -/
def mustBeZero (op : Nat) : Word :=
  match op with
  | 1 => 0xFF0FFFF0
  | 2 => 0xFFFFCF80
  | 3 => 0xFFFFCF80
  | 4 => 0xFFFFCF80
  | 5 => 0xFFFFC880
  | 6 => 0xFFFFCFC0
  | 7 => 0xFFFF0FC0
  | _ => 0xFFFE0FC0

/-- ExpLen of a BitUnpacker command by BPP code and HZ: ceil(N * CB / 8) with CB = 8, 16, 12, 16 (`41_bitunpack.md` R121). -/
def expLen (bpp hz n : Nat) : Nat :=
  match bpp, hz with
  | 0, _ => n
  | 1, 1 => 2 * n
  | 1, _ => (3 * n + 1) / 2
  | _, _ => 2 * n

/-- STRIDE by BPP code and HZ (`41_bitunpack.md` R122). -/
def strideOf (p : Params) (bpp hz : Nat) : Nat :=
  match bpp, hz with
  | 0, _ => p.stride8
  | 1, 1 => p.stride12hz
  | 1, _ => p.stride12
  | _, _ => p.stride16

/-- OutLen(op) (`60_exceptions.md` R202). -/
def outLenOf (op bpp target w h ch : Nat) : Nat :=
  match op with
  | 2 => w * h * ch
  | 3 => 2 * (w * h * ch)
  | 4 => 2 * (w * h * ch)
  | 5 => w * h * ch
  | 6 => w * h * ch
  | 7 => w * h
  | _ => w * h * (if target = 0 then 1 else 3) * (8 + 4 * bpp) / 8

/-- The result code of a command word, as the table of `60_exceptions.md` R202 gives it, read straight from the word's bits
and the registers. -/
def codeOf (w : Word) (s : State) : BitVec 8 :=
  let op := w.toNat % 16
  let bpp := w.toNat / 2 ^ 4 % 4
  let hz := w.toNat / 2 ^ 6 % 2
  let mode := w.toNat / 2 ^ 8 % 8
  let ch := w.toNat / 2 ^ 12 % 4
  let target := w.toNat / 2 ^ 16 % 2
  let group := w.toNat / 2 ^ 20 % 16
  let width := s.width.toNat
  let height := s.height.toNat
  let len := s.len.toNat
  let unpacker : Prop := 2 ≤ op ∧ op ≤ 5
  let mosaic : Prop := op = 7 ∨ op = 8
  if op = 0 ∨ 8 < op then 0x01
  else if w &&& mustBeZero op ≠ 0 then 0x02
  else if op ≠ 1 ∧ (bpp = 3 ∨ ((op = 6 ∨ op = 8) ∧ bpp = 1) ∨ (op = 7 ∧ bpp ≠ 0)) then 0x03
  else if unpacker ∧ bpp = 2 ∧ hz = 1 then 0x04
  else if op = 5 ∧ mode > 5 then 0x05
  else if op ≠ 1 ∧ ((ch ≠ 1 ∧ ch ≠ 3) ∨ (mosaic ∧ ch ≠ 1)) then 0x06
  else if op = 1 ∧ group = 0 then 0x07
  else if op ≠ 1 ∧ (width = 0 ∨ height = 0 ∨ (mosaic ∧ (width % 2 = 1 ∨ height % 2 = 1))) then 0x08
  else if op = 7 ∧ ¬(gainLegal s.gainR ∧ gainLegal s.gainG ∧ gainLegal s.gainB) then 0x09
  else if (op = 1 ∧ (s.offset.toNat > len ∨ (len - s.offset.toNat) % group ≠ 0)) ∨
      (unpacker ∧ (len ≠ expLen bpp hz (width * height * ch) ∨ len % strideOf s.params bpp hz ≠ 0)) ∨
      (op = 6 ∧ len ≠ width * height * ch * (8 + 4 * bpp) / 8) ∨
      (op = 7 ∧ len ≠ width * height) ∨
      (op = 8 ∧ len ≠ width * height * (8 + 4 * bpp) / 8) then 0x10
  else if s.src.toNat + len > s.params.memSize then 0x20
  else if op ≠ 1 ∧ s.dst.toNat + outLenOf op bpp target width height ch > s.params.memSize then 0x20
  else 0x00

/-- The bit pictures of `41_bitunpack.md` R120: a 12-bit high-zero container `0000AAAA AAAAAAAA`. -/
def picture12High (b0 b1 : Byte) : BitVec 12 := b0.extractLsb' 0 4 ++ b1

/-- Sample A of `AAAAAAAA AAAABBBB BBBBBBBB`. -/
def picture12A (b0 b1 : Byte) : BitVec 12 := b0 ++ b1.extractLsb' 4 4

/-- Sample B of `AAAAAAAA AAAABBBB BBBBBBBB`. -/
def picture12B (b1 b2 : Byte) : BitVec 12 := b1.extractLsb' 0 4 ++ b2

/-- A big-endian 16-bit sample (`20_memory.md` R63). -/
def picture16 (b0 b1 : Byte) : Half := b0 ++ b1

/-- The reset column of the register map (`10_state.md` R23). -/
def resetValue (r : Reg) : Word :=
  match r with
  | .id => 0x5A495749
  | .gainR => 0x00000400
  | .gainG => 0x00000400
  | .gainB => 0x00000400
  | _ => 0x00000000

/-- The bits of a register that a host write stores and a read returns (`10_state.md` R23: the RW registers whose write
does nothing else). -/
def storedBits (r : Reg) : Option Word :=
  match r with
  | .src => some 0xFFFFFFFF
  | .dst => some 0xFFFFFFFF
  | .len => some 0xFFFFFFFF
  | .dim => some 0xFFFFFFFF
  | .offset => some 0xFFFFFFFF
  | .gainR => some 0x0000FFFF
  | .gainG => some 0x0000FFFF
  | .gainB => some 0x0000FFFF
  | _ => none

end Sys2Proof.Claims

open Sys2Proof.Claims

/-! Encoding (`30_encoding.md`). -/

/-- Decoding the word the encoder writes gives the command back, for every command and every field value, the ill-formed
ones too (`30_encoding.md` R81, R92, R94, R97). -/
def Obligations.DecodeEncodeRoundTrip : Prop := ∀ i : Instr, decode (encode i) = .ok i

/-- A word that spells a command is that command's encoding: no two words spell the same command (`30_encoding.md` R94). -/
def Obligations.EncodeDecodeRoundTrip : Prop := ∀ (w : Word) (i : Instr), decode w = .ok i → encode i = w

/-- An OP of 0 or 9 .. F completes with CFG_OPCODE; a legal OP beside a nonzero always-reserved bit (mask 0xFF0E0880)
completes with CFG_RESERVED; neither writes memory (`30_encoding.md` R82, R93, R95). -/
def Obligations.IllegalWordsRefused : Prop :=
  ∀ (w : Word) (s : State),
    ((w.toNat % 16 = 0 ∨ 8 < w.toNat % 16) →
      ∃ t, completeWord w s = .next t ∧ t.errcode = 0x01 ∧ t.mem = s.mem) ∧
    ((1 ≤ w.toNat % 16 ∧ w.toNat % 16 ≤ 8) → w &&& 0xFF0E0880 ≠ 0 →
      ∃ t, completeWord w s = .next t ∧ t.errcode = 0x02 ∧ t.mem = s.mem)

/-- Words written out from the field table of `30_encoding.md` R81 decode to the commands they stand for. -/
def Obligations.SpecWordsDecode : Prop :=
  decode 0x00200001 = .ok (.endian 2) ∧
  decode 0x00001052 = .ok (.unpack8 .depth12 true 1) ∧
  decode 0x00003003 = .ok (.unpack16 .depth8 false 3) ∧
  decode 0x00001014 = .ok (.stretch16 .depth12 false 1) ∧
  decode 0x00001255 = .ok (.window8 .depth12 true 2 1) ∧
  decode 0x00001026 = .ok (.norm8 .depth16 1) ∧
  decode 0x00005007 = .ok (.gain .depth8 1 .grbg) ∧
  decode 0x0001D028 = .ok (.demosaic .depth16 1 .rggb .rgb)

/-- A command is ill-formed exactly when it completes with one of the codes of steps 3 to 7 of `60_exceptions.md` R202
(`30_encoding.md` R94). -/
def Obligations.IllFormedExactlyFormCodes : Prop :=
  ∀ (i : Instr) (s : State), ∃ t, exec i s = .next t ∧
    (i.wellFormed = false ↔ 0x03 ≤ t.errcode.toNat ∧ t.errcode.toNat ≤ 0x07)

/-- The assembler never emits an erroring word: what it emits decodes to a well-formed command (`30_encoding.md` R97). -/
def Obligations.AssembledWordsWellFormed : Prop :=
  ∀ (m : Mnemonic) (args : List (AsmKey × AsmValue)) (w : Word), assemble m args = some w →
    ∃ i, decode w = .ok i ∧ i.wellFormed = true ∧ i.mnemonic = m

/-- The text of a line that assembles is a raw word's, or gives the word of a well-formed command (`30_encoding.md` R97,
R98; the spacing of a line is the model's, log entry 16). -/
def Obligations.AssembledLinesWellFormed : Prop :=
  ∀ (line : List Char) (w : Word), assembleLine line = some w →
    lineName line = ".word".toList ∨ ∃ i, decode w = .ok i ∧ i.wellFormed = true

/-- RUN finds the command completed: whatever the number of polls before the completion falls, the host's last read of
STATUS returns DONE = 1, and the polls before it DONE = 0 (`30_encoding.md` R99, `10_state.md` R26, R35; POLL unrolled, log entry 16). -/
def Obligations.RunPollsUntilDone : Prop :=
  ∀ (s : State) (i : Instr) (k : Nat), s.busy = false → s.events = hostRun i k →
    ∃ t v, Host.Core.run core (k + 3) s = .next t ∧ t.events = [] ∧ t.busy = false ∧ v.getLsbD 1 = true ∧
      t.reads = .reg .status v :: (List.replicate k (.reg .status 1) ++ s.reads)

/-! The step. -/

/-- While BUSY, when the engine moves, the step is the meaning of the command that the latched CMD spells; the events to
come lose the engine's turn, if one was listed (`60_exceptions.md` R205, R206; the list of events is the model's own, log
entry 1). -/
def Obligations.StepRunsIssuedCommand : Prop :=
  ∀ (s : State) (i : Instr), s.busy = true → decode s.cmd = .ok i →
    (s.events = [] → step s = exec i s) ∧
    (∀ rest, s.events = .engine :: rest → step s = exec i { s with events := rest })

/-- Issuing a command by `withFetchWord` makes the next step run exactly it, with the issued state's registers
(`withFetchWord` stands for the host's CMD write, log entry 2). -/
def Obligations.IssuedWordRunsNext : Prop :=
  ∀ (s : State) (i : Instr), step (s.withFetchWord 32 (encode i).toNat) = exec i (State.issue (encode i) s)

/-- No state stops the machine: every step answers a next state. For a command this is `60_exceptions.md` R200 and R204.
That a bad host access, to which R40 gives no step, is consumed and only recorded (log entry 7), and that the engine's turn
while BUSY = 0, where R205 has no enabled step, answers the same state (log entry 10), are the model's. -/
def Obligations.StepAlwaysAnswers : Prop := ∀ s : State, ∃ t, step s = .next t

/-- With no event to come and no command in flight the block does nothing (`70_reset_and_hazards.md` R232;
that the step then answers the same state is the model's, log entry 10). -/
def Obligations.IdleBlockStays : Prop := ∀ s : State, s.over → step s = .next s

/-- The invariant holds at power-on reset, with nothing assumed of MEM_SIZE (log entry 3). -/
def Obligations.ResetHasInvariant : Prop := State.inv State.reset

/-- Every step keeps the invariant: the memory stays canonical and inside MEM_SIZE, ERRCODE stays legal, the status
registers stay consistent. -/
def Obligations.StepKeepsInvariant : Prop := ∀ s t : State, State.inv s → step s = .next t → State.inv t

/-- No step clears a recorded fault (`10_state.md` R43), and no step changes an implementation parameter: that the
parameters of `00_scope.md` R7 are a field of State which every step keeps is the model's choice (log entry 3). -/
def Obligations.FaultsNeverCleared : Prop :=
  ∀ s t : State, step s = .next t →
    t.params = s.params ∧
    (s.faults.hostBadAccess = true → t.faults.hostBadAccess = true) ∧
    (s.faults.hostRace = true → t.faults.hostRace = true)

/-! Completion and errors (`60_exceptions.md`). -/

/-- The reported code of every command word is the first failing step of the table of `60_exceptions.md` R202. -/
def Obligations.ReportedCodeFollowsCheckOrder : Prop :=
  ∀ (w : Word) (s : State), ∃ t, completeWord w s = .next t ∧ t.errcode = codeOf w s

/-- An erroring command writes nothing to buffer memory, does not change MAXVAL and sets OUT_LEN to 0: the state after is
the state before but for STATUS and OUT_LEN; and the verdict does not depend on memory (`60_exceptions.md` R203). -/
def Obligations.ErrorsWriteNothing : Prop :=
  ∀ (w : Word) (s : State), ∃ t, completeWord w s = .next t ∧
    (t.errcode ≠ 0 →
      t = { s with outLen := 0, errcode := t.errcode, err := true, done := true, busy := false }) ∧
    (∀ m : Memory, ∃ t', completeWord w { s with mem := m } = .next t' ∧ t'.errcode = t.errcode)

/-- The completion of any command word sets ERRCODE to a code of the table, ERR exactly when it is not OK, DONE, and
clears BUSY (`60_exceptions.md` R206). -/
def Obligations.CompletionSetsStatus : Prop :=
  ∀ (w : Word) (s : State), ∃ t, completeWord w s = .next t ∧
    t.errcode ∈ legalCodes ∧ (t.err = true ↔ t.errcode ≠ 0) ∧ t.done = true ∧ t.busy = false

/-- No command writes a parameter register, CMD, CTRL or the fault set (`10_state.md` R20), nor the implementation parameters,
which are a field of State by the model's choice (log entry 3). -/
def Obligations.CommandsKeepParameterRegisters : Prop :=
  ∀ (i : Instr) (s t : State), exec i s = .next t →
    t.src = s.src ∧ t.dst = s.dst ∧ t.len = s.len ∧ t.width = s.width ∧ t.height = s.height ∧ t.offset = s.offset ∧
    t.gainR = s.gainR ∧ t.gainG = s.gainG ∧ t.gainB = s.gainB ∧
    t.cmd = s.cmd ∧ t.irqEn = s.irqEn ∧ t.faults = s.faults ∧ t.params = s.params

/-- A successful command's source and destination ranges lie inside buffer memory (`20_memory.md` R67). -/
def Obligations.SuccessStaysInBounds : Prop :=
  ∀ (i : Instr) (s t : State), exec i s = .next t → t.errcode = 0 →
    s.src.toNat + s.len.toNat ≤ s.params.memSize ∧ outBase i s + outBytes i s ≤ s.params.memSize

/-- A successful command writes only its destination range, and MAXVAL only in NORM8 and WINDOW8 mode 5
(`20_memory.md` R68, `10_state.md` R38). -/
def Obligations.SuccessWritesOnlyDestination : Prop :=
  ∀ (i : Instr) (s t : State), exec i s = .next t → t.errcode = 0 →
    completedOk s t (outBase i s) (outBytes i s) t.maxval ∧
    ((∀ bpp ch, i ≠ .norm8 bpp ch) → (∀ bpp hz ch, i ≠ .window8 bpp hz 5 ch) → t.maxval = s.maxval)

/-- OUT_LEN holds the exact number of bytes written, which always fits 32 bits, and 0 after a command that ended in error
(`10_state.md` R36, `00_scope.md` R11). -/
def Obligations.OutLenIsExact : Prop :=
  ∀ (i : Instr) (s t : State), s.params.wf → exec i s = .next t →
    t.outLen.toNat = if t.errcode = 0 then outBytes i s else 0

/-- A command's result depends on memory only through the bytes of its source range (`20_memory.md` R68): two memories
that agree there give the same registers and the same destination bytes. -/
def Obligations.ResultDependsOnSourceBytesOnly : Prop :=
  ∀ (i : Instr) (s : State) (m : Memory) (t u : State),
    (∀ a, s.src.toNat ≤ a → a < s.src.toNat + s.len.toNat → Memory.read m a = Memory.read s.mem a) →
    exec i s = .next t → exec i { s with mem := m } = .next u →
    u = { t with mem := u.mem } ∧
    (t.errcode = 0 → ∀ k, k < outBytes i s → Memory.read u.mem (outBase i s + k) = Memory.read t.mem (outBase i s + k))

/-! ENDIAN (`40_endian.md`). -/

/-- ENDIAN reverses the bytes of every group in place, and OUT_LEN is LEN - OFFSET (`40_endian.md` R111). -/
def Obligations.EndianReversesGroups : Prop :=
  ∀ (group : BitVec 4) (s : State), endianReady group s →
    ∃ t, exec (.endian group) s = .next t ∧
      completedOk s t (s.src.toNat + s.offset.toNat) (s.len.toNat - s.offset.toNat) s.maxval ∧
      ∀ k j, j < group.toNat → k * group.toNat + j < s.len.toNat - s.offset.toNat →
        Memory.read t.mem (s.src.toNat + s.offset.toNat + (k * group.toNat + j)) =
          Memory.read s.mem (s.src.toNat + s.offset.toNat + (k * group.toNat + (group.toNat - 1 - j)))

/-- ENDIAN applied twice with the same operands restores every byte of memory (`40_endian.md` R111). -/
def Obligations.EndianTwiceRestores : Prop :=
  ∀ (group : BitVec 4) (s : State), endianReady group s →
    ∃ t u, exec (.endian group) s = .next t ∧ exec (.endian group) t = .next u ∧
      ∀ a, Memory.read u.mem a = Memory.read s.mem a

/-! The BitUnpacker commands (`41_bitunpack.md`). -/

/-- Sample(i) is the bit picture of its bytes in every packing convention, in every WORD_ORDER, and is below 2^bpp; the
container bits are 8, 16, 12 and 16 (`41_bitunpack.md` R120). -/
def Obligations.SamplesMatchBitPictures : Prop :=
  ∀ (m : Memory) (src i : Nat) (hz : Bool),
    sample m src .depth8 hz i = (Memory.read m (src + i)).toNat ∧
    sample m src .depth12 true i =
      (picture12High (Memory.read m (src + 2 * i)) (Memory.read m (src + 2 * i + 1))).toNat ∧
    (i % 2 = 0 → sample m src .depth12 false i =
      (picture12A (Memory.read m (src + 3 * (i / 2))) (Memory.read m (src + 3 * (i / 2) + 1))).toNat) ∧
    (i % 2 = 1 → sample m src .depth12 false i =
      (picture12B (Memory.read m (src + 3 * (i / 2) + 1)) (Memory.read m (src + 3 * (i / 2) + 2))).toNat) ∧
    sample m src .depth16 false i = (picture16 (Memory.read m (src + 2 * i)) (Memory.read m (src + 2 * i + 1))).toNat ∧
    (∀ bpp, unpackDepthLegal bpp hz = true → sample m src bpp hz i < 2 ^ bppBits bpp) ∧
    containerBits .depth8 hz = 8 ∧ containerBits .depth12 true = 16 ∧ containerBits .depth12 false = 12 ∧
    containerBits .depth16 false = 16

/-- The padding nibble of high-zero data is ignored: two memories whose bytes agree but for the high nibbles of the
containers' first bytes give the same samples (`41_bitunpack.md` R123). -/
def Obligations.PaddingNibbleIgnored : Prop :=
  ∀ (m n : Memory) (src i : Nat),
    (Memory.read m (src + 2 * i)).extractLsb' 0 4 = (Memory.read n (src + 2 * i)).extractLsb' 0 4 →
    Memory.read m (src + 2 * i + 1) = Memory.read n (src + 2 * i + 1) →
    sample m src .depth12 true i = sample n src .depth12 true i

/-- UNPACK8 writes the high 8 bits of every sample (`41_bitunpack.md` R130). -/
def Obligations.Unpack8WritesHighBytes : Prop :=
  ∀ (bpp : Bpp) (hz : Bool) (ch : BitVec 2) (s : State), packedReady bpp hz ch (sampleCount ch s) s →
    ∃ t, exec (.unpack8 bpp hz ch) s = .next t ∧
      completedOk s t s.dst.toNat (sampleCount ch s) s.maxval ∧
      ∀ i, i < sampleCount ch s →
        (Memory.read t.mem (s.dst.toNat + i)).toNat = sample s.mem s.src.toNat bpp hz i / 2 ^ (bppBits bpp - 8)

/-- UNPACK16 writes every sample value-preserving as a word, with EXT8TO16 for bytes (`41_bitunpack.md` R135). -/
def Obligations.Unpack16WritesWords : Prop :=
  ∀ (bpp : Bpp) (hz : Bool) (ch : BitVec 2) (s : State), packedReady bpp hz ch (2 * sampleCount ch s) s →
    ∃ t, exec (.unpack16 bpp hz ch) s = .next t ∧
      completedOk s t s.dst.toNat (2 * sampleCount ch s) s.maxval ∧
      ∀ i, i < sampleCount ch s → ∃ v : Half,
        holdsWord s.params.wordOrder t.mem (s.dst.toNat + 2 * i) v ∧
        v.toNat = sample s.mem s.src.toNat bpp hz i * (if bpp = .depth8 ∧ s.params.ext8To16 = .dup then 257 else 1)

/-- STRETCH16 writes every sample times 256, 16 or 1 as a word (`41_bitunpack.md` R140). -/
def Obligations.Stretch16WritesScaledWords : Prop :=
  ∀ (bpp : Bpp) (hz : Bool) (ch : BitVec 2) (s : State), packedReady bpp hz ch (2 * sampleCount ch s) s →
    ∃ t, exec (.stretch16 bpp hz ch) s = .next t ∧
      completedOk s t s.dst.toNat (2 * sampleCount ch s) s.maxval ∧
      ∀ i, i < sampleCount ch s → ∃ v : Half,
        holdsWord s.params.wordOrder t.mem (s.dst.toNat + 2 * i) v ∧
        v.toNat = sample s.mem s.src.toNat bpp hz i * 2 ^ (16 - bppBits bpp)

/-- WINDOW8 with MODE 0 .. 4 writes an 8-bit window of every sample: the byte itself, bits [11-m : 4-m] of a 12-bit sample,
8 bits from WIN16_SHIFT(m) of a 16-bit sample (`41_bitunpack.md` R145, R146). -/
def Obligations.Window8WritesWindows : Prop :=
  ∀ (bpp : Bpp) (hz : Bool) (mode : BitVec 3) (ch : BitVec 2) (s : State),
    mode.toNat ≤ 4 → packedReady bpp hz ch (sampleCount ch s) s →
    ∃ t, exec (.window8 bpp hz mode ch) s = .next t ∧
      completedOk s t s.dst.toNat (sampleCount ch s) s.maxval ∧
      ∀ i, i < sampleCount ch s →
        let x := sample s.mem s.src.toNat bpp hz i
        (bpp = .depth8 → (Memory.read t.mem (s.dst.toNat + i)).toNat = x) ∧
        (bpp = .depth12 → Memory.read t.mem (s.dst.toNat + i) = (BitVec.ofNat 12 x).extractLsb' (4 - mode.toNat) 8) ∧
        (bpp = .depth16 →
          Memory.read t.mem (s.dst.toNat + i) = (BitVec.ofNat 16 x).extractLsb' (win16Shift s.params mode.toNat) 8)

/-- WINDOW8 with MODE 5 writes Normalize of the samples and puts their maximum in MAXVAL (`41_bitunpack.md` R145, R147,
`42_range_reduce.md` R161). -/
def Obligations.Window8Mode5Normalizes : Prop :=
  ∀ (bpp : Bpp) (hz : Bool) (ch : BitVec 2) (s : State), packedReady bpp hz ch (sampleCount ch s) s →
    ∃ t mx, exec (.window8 bpp hz 5 ch) s = .next t ∧
      (∃ i, i < sampleCount ch s ∧ sample s.mem s.src.toNat bpp hz i = mx) ∧
      (∀ i, i < sampleCount ch s → sample s.mem s.src.toNat bpp hz i ≤ mx) ∧
      t.maxval.toNat = mx ∧
      completedOk s t s.dst.toNat (sampleCount ch s) t.maxval ∧
      ∀ i, i < sampleCount ch s → (Memory.read t.mem (s.dst.toNat + i)).toNat =
        if mx = 0 then 0 else roundDiv s.params.normRound (sample s.mem s.src.toNat bpp hz i * 255) mx

/-- For 8-bit input UNPACK8 copies the source bytes, read before any write (`41_bitunpack.md` R150 law 1; `10_state.md`
R42: source and destination may overlap). -/
def Obligations.Unpack8CopiesBytes : Prop :=
  ∀ (hz : Bool) (ch : BitVec 2) (s : State), packedReady .depth8 hz ch (sampleCount ch s) s →
    ∃ t, exec (.unpack8 .depth8 hz ch) s = .next t ∧
      ∀ i, i < sampleCount ch s → Memory.read t.mem (s.dst.toNat + i) = Memory.read s.mem (s.src.toNat + i)

/-- UNPACK16 of 12-bit high-zero data keeps each sample in the low 12 bits of its word under a zero high nibble; and under
WORD_ORDER = BE the words are the input bytes exactly when every padding nibble is 0 (`41_bitunpack.md` R150 law 2). -/
def Obligations.HighZeroRoundTrip : Prop :=
  ∀ (ch : BitVec 2) (s : State), packedReady .depth12 true ch (2 * sampleCount ch s) s →
    ∃ t, exec (.unpack16 .depth12 true ch) s = .next t ∧
      (∀ i, i < sampleCount ch s → ∃ v : Half, holdsWord s.params.wordOrder t.mem (s.dst.toNat + 2 * i) v ∧
        (v.extractLsb' 0 12).toNat = sample s.mem s.src.toNat .depth12 true i ∧ v.extractLsb' 12 4 = 0) ∧
      (s.params.wordOrder = .be →
        ((∀ k, k < 2 * sampleCount ch s →
            Memory.read t.mem (s.dst.toNat + k) = Memory.read s.mem (s.src.toNat + k)) ↔
          ∀ i, i < sampleCount ch s → (Memory.read s.mem (s.src.toNat + 2 * i)).extractLsb' 4 4 = 0))

/-- STRETCH16 with bpp 12 or 16 and then NORM8 with bpp 16 on its output gives the bytes that WINDOW8 MODE 5 gives for the
original source: scaling every sample by one factor does not change Normalize (`41_bitunpack.md` R150 law 3). Between the
two commands the host points SRC, LEN and DST at the stretched words and the new destination. -/
def Obligations.StretchThenNormalizeIsNormalize : Prop :=
  ∀ (bpp : Bpp) (hz : Bool) (ch : BitVec 2) (s : State) (d : Word),
    bpp = .depth12 ∨ bpp = .depth16 →
    packedReady bpp hz ch (2 * sampleCount ch s) s → 2 * sampleCount ch s < 2 ^ 32 →
    d.toNat + sampleCount ch s ≤ s.params.memSize →
    ∃ t u v, exec (.stretch16 bpp hz ch) s = .next t ∧
      exec (.norm8 .depth16 ch) { t with src := s.dst, dst := d, len := BitVec.ofNat 32 (2 * sampleCount ch s) } = .next u ∧
      exec (.window8 bpp hz 5 ch) { s with dst := d } = .next v ∧
      u.errcode = 0 ∧ v.errcode = 0 ∧
      ∀ i, i < sampleCount ch s → Memory.read u.mem (d.toNat + i) = Memory.read v.mem (d.toNat + i)

/-- When the largest sample is full scale, Normalize stays within 1 of the high byte under HALF_UP, and is the high byte or
one less under TRUNC (`41_bitunpack.md` R150 law 3). -/
def Obligations.FullScaleNormalizeNearHighByte : Prop :=
  ∀ (bits x : Nat), bits = 12 ∨ bits = 16 → x < 2 ^ bits →
    (scaleSample .halfUp (2 ^ bits - 1) x ≤ x / 2 ^ (bits - 8) + 1 ∧
      x / 2 ^ (bits - 8) ≤ scaleSample .halfUp (2 ^ bits - 1) x + 1) ∧
    (scaleSample .trunc (2 ^ bits - 1) x = x / 2 ^ (bits - 8) ∨
      scaleSample .trunc (2 ^ bits - 1) x + 1 = x / 2 ^ (bits - 8))

/-- WINDOW8 with MODE 0 is UNPACK8 for every (bpp, hz) under WIN16_SHIFT(0) = 8 (`41_bitunpack.md` R150 law 4). -/
def Obligations.Window8Mode0IsUnpack8 : Prop :=
  ∀ (bpp : Bpp) (hz : Bool) (ch : BitVec 2) (s : State), s.params.winShift0 = 8 →
    exec (.window8 bpp hz 0 ch) s = exec (.unpack8 bpp hz ch) s

/-! NORM8 (`42_range_reduce.md`). -/

/-- NORM8 writes Normalize of the elements and puts their maximum in MAXVAL (`42_range_reduce.md` R161, R162). -/
def Obligations.Norm8Normalizes : Prop :=
  ∀ (bpp : Bpp) (ch : BitVec 2) (s : State), norm8Ready bpp ch s →
    ∃ t mx, exec (.norm8 bpp ch) s = .next t ∧
      (∃ i, i < sampleCount ch s ∧ element s.params.wordOrder s.mem s.src.toNat bpp i = mx) ∧
      (∀ i, i < sampleCount ch s → element s.params.wordOrder s.mem s.src.toNat bpp i ≤ mx) ∧
      t.maxval.toNat = mx ∧
      completedOk s t s.dst.toNat (sampleCount ch s) t.maxval ∧
      ∀ i, i < sampleCount ch s → (Memory.read t.mem (s.dst.toNat + i)).toNat =
        if mx = 0 then 0
        else roundDiv s.params.normRound (element s.params.wordOrder s.mem s.src.toNat bpp i * 255) mx

/-- When every source byte is 0, NORM8 writes zeros and sets MAXVAL to 0 (`42_range_reduce.md` R163). -/
def Obligations.Norm8OfZerosIsZero : Prop :=
  ∀ (bpp : Bpp) (ch : BitVec 2) (s : State), norm8Ready bpp ch s →
    (∀ k, k < s.len.toNat → Memory.read s.mem (s.src.toNat + k) = 0) →
    ∃ t, exec (.norm8 bpp ch) s = .next t ∧ t.errcode = 0 ∧ t.maxval = 0 ∧
      ∀ i, i < sampleCount ch s → Memory.read t.mem (s.dst.toNat + i) = 0

/-- Normalize keeps its bytes in 0 .. 255, gives 255 wherever the sample is a nonzero maximum, and RoundDiv rounds as its
name says: HALF_UP is the nearest integer with halves up, TRUNC the integer part (`42_range_reduce.md` R161). -/
def Obligations.NormalizeRoundsIntoBytes : Prop :=
  (∀ (r : NormRound) (xs : List Nat), ∀ x ∈ xs,
    scaleSample r (maxSample xs) x ≤ 255 ∧ (x = maxSample xs → x ≠ 0 → scaleSample r (maxSample xs) x = 255)) ∧
  (∀ a b : Nat, 0 < b →
    (2 * b * roundDiv .halfUp a b ≤ 2 * a + b ∧ 2 * a + b < 2 * b * (roundDiv .halfUp a b + 1)) ∧
    (b * roundDiv .trunc a b ≤ a ∧ a < b * (roundDiv .trunc a b + 1)))

/-! GAIN (`44_gain.md`). -/

/-- GAIN multiplies the sample of every pixel by the gain of its site, rounds by GAIN_ROUND and saturates
(`44_gain.md` R181; the site table is the spec's reading of the names, `30_encoding.md` R90, log entry 17). -/
def Obligations.GainScalesEverySite : Prop :=
  ∀ (bpp : Bpp) (ch : BitVec 2) (layout : Layout) (s : State), gainReady bpp ch s →
    ∃ t, exec (.gain bpp ch layout) s = .next t ∧
      completedOk s t s.dst.toNat (pixelCount s) s.maxval ∧
      ∀ x y, x < s.width.toNat → y < s.height.toNat →
        let i := y * s.width.toNat + x
        let q := roundQ s.params.gainRound
          ((Memory.read s.mem (s.src.toNat + i)).toNat * siteGain s (siteOf layout y x))
        ((Memory.read t.mem (s.dst.toNat + i)).toNat : Int) = if q < 0 then 0 else if q > 255 then 255 else q

/-- The reset gains make GAIN the identity for every layout and every GAIN_ROUND (`44_gain.md` R185). -/
def Obligations.GainOneIsIdentity : Prop :=
  ∀ (bpp : Bpp) (ch : BitVec 2) (layout : Layout) (s : State), gainReady bpp ch s →
    s.gainR = 0x0400 → s.gainG = 0x0400 → s.gainB = 0x0400 →
    ∃ t, exec (.gain bpp ch layout) s = .next t ∧
      ∀ i, i < pixelCount s → Memory.read t.mem (s.dst.toNat + i) = Memory.read s.mem (s.src.toNat + i)

/-- The gain product's corner cases: a negative or zero gain gives 0, and gain 10.0 saturates every sample of 26 or more,
under every GAIN_ROUND (`44_gain.md` R181, R184). -/
def Obligations.GainProductsSaturate : Prop :=
  ∀ (r : GainRound) (x : Nat) (g : Int), x ≤ 255 →
    (g ≤ 0 → clampByte (roundQ r (x * g)) = 0) ∧
    (26 ≤ x → clampByte (roundQ r (x * 10240)) = 255)

/-- RoundQ is p / 1024 rounded: HALF_UP to the nearest with halves up, HALF_EVEN to the nearest with halves to even, TRUNC
toward zero (`44_gain.md` R181). -/
def Obligations.GainRoundingIsNearest : Prop :=
  ∀ p : Int,
    (1024 * roundQ .halfUp p ≤ p + 512 ∧ p + 512 < 1024 * (roundQ .halfUp p + 1)) ∧
    (2 * |1024 * roundQ .halfEven p - p| ≤ 1024 ∧
      (2 * |1024 * roundQ .halfEven p - p| = 1024 → roundQ .halfEven p % 2 = 0)) ∧
    (|1024 * roundQ .trunc p| ≤ |p| ∧ |p| < |1024 * roundQ .trunc p| + 1024 ∧ 0 ≤ p * roundQ .trunc p)

/-! DEMOSAIC (`43_demosaic.md`). -/

/-- DEMOSAIC writes what DemosaicKernel gives for the elements of the mosaic, as bytes or as words in WORD_ORDER: W*H*C
elements (`43_demosaic.md` R171, R172). Nothing is said of the values. -/
def Obligations.DemosaicWritesKernelOutput : Prop :=
  ∀ (bpp : Bpp) (ch : BitVec 2) (layout : Layout) (target : Target) (s : State), demosaicReady bpp ch target s →
    ∃ t, exec (.demosaic bpp ch layout target) s = .next t ∧
      completedOk s t s.dst.toNat (demosaicLength bpp target s) s.maxval ∧
      let out := demosaicKernel layout target (bppBits bpp) s.width.toNat s.height.toNat (elements bpp (pixelCount s) s)
      demosaicLength bpp target s = out.length * (bppBits bpp / 8) ∧
      ∀ j, j < out.length →
        (bpp = .depth8 → (Memory.read t.mem (s.dst.toNat + j)).toNat = out.getD j 0) ∧
        (bpp = .depth16 → ∃ v : Half, holdsWord s.params.wordOrder t.mem (s.dst.toNat + 2 * j) v ∧ v.toNat = out.getD j 0)

/-- DemosaicKernel gives W*H*C samples, each below 2^depth (`00_scope.md` R9; that nothing else is known of them is the
model's free value, log entry 6). -/
def Obligations.KernelOutputHasItsShape : Prop :=
  ∀ (l : Layout) (t : Target) (depth w h : Nat) (xs : List Nat),
    (demosaicKernel l t depth w h xs).length = w * h * (if t = .gray then 1 else 3) ∧
    ∀ v ∈ demosaicKernel l t depth w h xs, v < 2 ^ depth

/-! Byte order (`20_memory.md`). -/

/-- WrW writes a 16-bit value's two bytes in WORD_ORDER, and RdW reads the value back (`20_memory.md` R64). -/
def Obligations.WordOrderReadsBack : Prop :=
  ∀ (o : WordOrder) (m : Memory) (a : Nat) (v : Half),
    holdsWord o (Memory.writeRange m a (wordBytes o v.toNat)) a v ∧
    Memory.rdW o (Memory.writeRange m a (wordBytes o v.toNat)) a = v.toNat

/-! Reset, the register window and the host (`10_state.md`, `70_reset_and_hazards.md`). -/

/-- Power-on reset: every register reads its reset value, no command is in flight, the IRQ output is deasserted and the
fault set is empty (`70_reset_and_hazards.md` R230). -/
def Obligations.ResetRegisterValues : Prop :=
  (∀ r : Reg, readReg r State.reset = resetValue r) ∧
  State.reset.busy = false ∧ irqLevel State.reset = false ∧ State.reset.noFault

/-- Soft reset: a write of CTRL with bit 1 set puts every register at its reset value while BUSY = 0, and is ignored while
BUSY = 1; memory and the fault set stay (`70_reset_and_hazards.md` R231). -/
def Obligations.SoftResetRestoresRegisters : Prop :=
  ∀ (s : State) (v : Word), v.getLsbD 1 = true →
    let t := hostStep (.regWrite 0x04 4 v) s
    (s.busy = false → (∀ r : Reg, readReg r t = resetValue r) ∧ t.mem = s.mem ∧ t.faults = s.faults ∧ t.busy = false) ∧
    (s.busy = true → t = s)

/-- A CMD write while BUSY = 0 stores the word and issues it: DONE, ERR and ERRCODE are cleared, BUSY is set, a read of CMD
returns the word, and nothing else changes; the engine's turn then completes that word (`10_state.md` R26). -/
def Obligations.CmdWriteIssues : Prop :=
  ∀ (s : State) (v : Word), s.busy = false →
    hostStep (.regWrite 0x0C 4 v) s =
      { s with cmd := v, done := false, err := false, errcode := 0, busy := true } ∧
    readReg .cmd (hostStep (.regWrite 0x0C 4 v) s) = v ∧
    engineStep (hostStep (.regWrite 0x0C 4 v) s) = completeWord v (hostStep (.regWrite 0x0C 4 v) s)

/-- While BUSY = 1 every host register write is ignored, whatever the register and the value, and a register read returns
the current value (`10_state.md` R39). -/
def Obligations.BusyIgnoresRegisterWrites : Prop :=
  ∀ (s : State) (r : Reg) (v : Word), s.busy = true →
    hostStep (.regWrite (regOffset r) 4 v) s = s ∧
    hostStep (.regRead (regOffset r) 4) s = { s with reads := .reg r (readReg r s) :: s.reads }

/-- A write of a RW register while BUSY = 0 stores the bits of its RW fields, and leaves every other register and the
memory; a write of a RO or RAZ/WI register has no effect (`10_state.md` R23, R41). -/
def Obligations.RegisterWritesStoreFields : Prop :=
  ∀ (s : State) (r : Reg) (v : Word), s.busy = false →
    let t := hostStep (.regWrite (regOffset r) 4 v) s
    (∀ mask, storedBits r = some mask →
      readReg r t = v &&& mask ∧ (∀ q, q ≠ r → readReg q t = readReg q s) ∧ t.mem = s.mem ∧ t.busy = false) ∧
    (r = .id ∨ r = .outLen ∨ r = .maxval ∨ r = .reserved38 ∨ r = .reserved3C → t = s)

/-- STATUS: BUSY, DONE, ERR and ERRCODE at their bits, reserved bits 0; a write clears DONE and ERR where its bits 1 and 2
are 1 and changes nothing else (`10_state.md` R35). -/
def Obligations.StatusBitsAndClear : Prop :=
  ∀ (s : State) (v : Word),
    (readReg .status s).toNat =
      s.busy.toNat + 2 * s.done.toNat + 4 * s.err.toNat + 256 * s.errcode.toNat ∧
    (s.busy = false →
      hostStep (.regWrite 0x08 4 v) s =
        { s with done := s.done && !v.getLsbD 1, err := s.err && !v.getLsbD 2 })

/-- A CTRL write without SOFT_RESET stores bit 0 in IRQ_EN and nothing else; CTRL reads IRQ_EN alone (`10_state.md` R25). -/
def Obligations.CtrlHoldsIrqEnable : Prop :=
  ∀ (s : State) (v : Word), s.busy = false → v.getLsbD 1 = false →
    hostStep (.regWrite 0x04 4 v) s = { s with irqEn := v.getLsbD 0 } ∧
    (readReg .ctrl s).toNat = s.irqEn.toNat

/-- IRQ is IRQ_EN AND DONE; completion of any command asserts it when enabled; clearing DONE, clearing IRQ_EN, a new issue
and a soft reset each deassert it, and no other host operation does (`10_state.md` R37). -/
def Obligations.IrqFollowsDone : Prop :=
  ∀ (s : State), irqLevel s = (s.irqEn && s.done) ∧
    (∀ w, s.irqEn = true → ∃ t, completeWord w s = .next t ∧ irqLevel t = true) ∧
    (s.busy = false → ∀ v : Word,
      (v.getLsbD 1 = true → irqLevel (hostStep (.regWrite 0x08 4 v) s) = false) ∧
      (v.getLsbD 0 = false ∨ v.getLsbD 1 = true → irqLevel (hostStep (.regWrite 0x04 4 v) s) = false) ∧
      irqLevel (hostStep (.regWrite 0x0C 4 v) s) = false) ∧
    (∀ op, irqLevel s = true → irqLevel (hostStep op s) = false → ∃ v : Word,
      (op = .regWrite 0x08 4 v ∧ v.getLsbD 1 = true) ∨
      (op = .regWrite 0x04 4 v ∧ (v.getLsbD 0 = false ∨ v.getLsbD 1 = true)) ∨
      op = .regWrite 0x0C 4 v)

/-- A register access that is not 32 bits wide, is misaligned or falls outside 0x00 .. 0x3F records HOST_BAD_ACCESS and
has no other effect; every other register access records nothing (`10_state.md` R40, decision D5). That such an access is an
event which only records the fault, where R40 gives it no step (log entry 7), and that it is recorded while BUSY too (log
entry 8), are the model's. -/
def Obligations.BadRegisterAccessRecorded : Prop :=
  ∀ (s : State) (offset bytes : Nat) (v : Word),
    (bytes ≠ 4 ∨ offset % 4 ≠ 0 ∨ 0x40 ≤ offset →
      hostStep (.regRead offset bytes) s = { s with faults := { s.faults with hostBadAccess := true } } ∧
      hostStep (.regWrite offset bytes v) s = { s with faults := { s.faults with hostBadAccess := true } }) ∧
    (bytes = 4 → offset % 4 = 0 → offset < 0x40 →
      (hostStep (.regRead offset bytes) s).faults = s.faults ∧ (hostStep (.regWrite offset bytes v) s).faults = s.faults)

/-- A host memory byte access outside the memory records HOST_BAD_ACCESS; inside it, while BUSY, HOST_RACE; neither has
another effect (`20_memory.md` R61, `70_reset_and_hazards.md` R237; that an access outside the memory while BUSY records
HOST_BAD_ACCESS alone is the model's choice, log entry 8). -/
def Obligations.BadMemoryAccessRecorded : Prop :=
  ∀ (s : State) (a : Nat) (b : Byte),
    (s.params.memSize ≤ a →
      hostStep (.memRead a) s = { s with faults := { s.faults with hostBadAccess := true } } ∧
      hostStep (.memWrite a b) s = { s with faults := { s.faults with hostBadAccess := true } }) ∧
    (a < s.params.memSize → s.busy = true →
      hostStep (.memRead a) s = { s with faults := { s.faults with hostRace := true } } ∧
      hostStep (.memWrite a b) s = { s with faults := { s.faults with hostRace := true } })

/-- While the block is idle a host byte write stores its byte and nothing else, and a byte read returns the byte that stands
there (`20_memory.md` R61, R72). -/
def Obligations.HostByteAccess : Prop :=
  ∀ (s : State) (a : Nat) (b : Byte), a < s.params.memSize → s.busy = false →
    hostStep (.memRead a) s = { s with reads := .mem a (Memory.read s.mem a) :: s.reads } ∧
    ∃ m, hostStep (.memWrite a b) s = { s with mem := m } ∧ Memory.read m a = b ∧
      ∀ x, x ≠ a → Memory.read m x = Memory.read s.mem x

/-- A host operation's event runs that operation alone: the rest of the events stay, and while a command is in flight it
stays in flight, with its command word, flags and parameter registers, and memory as they were (`20_memory.md` R72, R74; the
list of events is the model's own, log entry 1). -/
def Obligations.HostEventKeepsCommandInFlight : Prop :=
  ∀ (s : State) (op : HostOp) (rest : List Event), s.events = .host op :: rest →
    ∃ t, step s = .next t ∧ t = hostStep op { s with events := rest } ∧ t.events = rest ∧
      (s.busy = true → t = { s with faults := t.faults, events := rest, reads := t.reads })
end

