-- ==== Sys2Proof/Laws/Memory.lean ====
section
/-! SUPPORT. The laws of buffer memory: a read after a write, the canonical form, and equal memories are equal data. -/

namespace Sys2Proof.Machine

@[simp] theorem Memory.cell_nil (a : Nat) : Memory.cell [] a = none := rfl

@[simp] theorem Memory.writeRange_nil (m : Memory) (a : Nat) : Memory.writeRange m a [] = m := rfl

theorem Memory.writeRange_cons (m : Memory) (a : Nat) (b : Byte) (bs : List Byte) :
    Memory.writeRange m a (b :: bs) = Memory.writeRange (Memory.write m a b) (a + 1) bs := rfl

/-- The written byte at the written address, and every other cell as it was. -/
theorem Memory.cell_write (m : Memory) (a : Nat) (b : Byte) (x : Nat) :
    Memory.cell (Memory.write m a b) x = if x = a then some b else Memory.cell m x := by
  induction m with
  | nil => simp [Memory.write, Memory.cell, eq_comm]
  | cons c m ih =>
    obtain ⟨y, d⟩ := c
    simp only [Memory.write]
    split
    · simp only [Memory.cell]
      by_cases h : x = a
      · simp [h]
      · simp [h, Ne.symm h]
    · split
      · rename_i h
        subst h
        simp only [Memory.cell]
        by_cases h : x = a
        · simp [h]
        · simp [h, Ne.symm h]
      · rename_i h1 h2
        simp only [Memory.cell, ih]
        by_cases h : x = a
        · subst h
          simp [Ne.symm h2]
        · simp [h]

@[simp] theorem Memory.read_write_same (m : Memory) (a : Nat) (b : Byte) :
    Memory.read (Memory.write m a b) a = b := by
  simp [Memory.read, Memory.cell_write]

theorem Memory.read_write_other (m : Memory) (a : Nat) (b : Byte) (x : Nat) (h : x ≠ a) :
    Memory.read (Memory.write m a b) x = Memory.read m x := by
  simp [Memory.read, Memory.cell_write, h]

/-- A range write leaves every byte outside the range. -/
theorem Memory.read_writeRange_outside (bs : List Byte) (m : Memory) (a x : Nat) (h : x < a ∨ a + bs.length ≤ x) :
    Memory.read (Memory.writeRange m a bs) x = Memory.read m x := by
  induction bs generalizing m a with
  | nil => rfl
  | cons b bs ih =>
    simp only [List.length_cons] at h
    rw [Memory.writeRange_cons, ih _ _ (by omega), Memory.read_write_other _ _ _ _ (by omega)]

/-- A range write puts the k-th byte at the k-th address. -/
theorem Memory.read_writeRange_inside (bs : List Byte) (m : Memory) (a k : Nat) (h : k < bs.length) :
    Memory.read (Memory.writeRange m a bs) (a + k) = bs[k] := by
  induction bs generalizing m a k with
  | nil => exact absurd h (by simp)
  | cons b bs ih =>
    rw [Memory.writeRange_cons]
    cases k with
    | zero => rw [Memory.read_writeRange_outside _ _ _ _ (by omega)]; simp
    | succ k =>
      have hk : k < bs.length := by simpa using h
      have := ih (Memory.write m a b) (a + 1) k hk
      rw [show a + (k + 1) = a + 1 + k by omega]
      simpa using this

/-- Every entry after a write is the new one or an old one. -/
theorem Memory.mem_write (m : Memory) (a : Nat) (b : Byte) (c : Host.Cell) (h : c ∈ Memory.write m a b) :
    c = (a, b) ∨ c ∈ m := by
  induction m with
  | nil => simpa [Memory.write] using h
  | cons d m ih =>
    obtain ⟨y, e⟩ := d
    simp only [Memory.write] at h
    split at h
    · simpa using h
    · split at h
      · rcases List.mem_cons.mp h with h | h
        · exact .inl h
        · exact .inr (List.mem_cons_of_mem _ h)
      · rcases List.mem_cons.mp h with h | h
        · exact .inr (h ▸ List.mem_cons_self)
        · exact (ih h).imp_right (List.mem_cons_of_mem _)

/-- A byte write keeps the canonical form. -/
theorem Memory.write_keeps_wf (m : Memory) (a : Nat) (b : Byte) (h : Memory.wf m) : Memory.wf (Memory.write m a b) := by
  induction m with
  | nil => simp [Memory.write, Memory.wf]
  | cons d m ih =>
    obtain ⟨y, e⟩ := d
    obtain ⟨hy, hm⟩ := List.pairwise_cons.mp h
    simp only [Memory.write]
    split
    · rename_i hlt
      refine List.pairwise_cons.mpr ⟨?_, h⟩
      intro c hc
      rcases List.mem_cons.mp hc with hc | hc
      · subst hc; exact hlt
      · exact Nat.lt_trans hlt (hy c hc)
    · split
      · rename_i heq
        subst heq
        exact List.pairwise_cons.mpr ⟨hy, hm⟩
      · rename_i h1 h2
        refine List.pairwise_cons.mpr ⟨?_, ih hm⟩
        intro c hc
        rcases Memory.mem_write m a b c hc with hc | hc
        · subst hc; simp only; omega
        · exact hy c hc

/-- A range write keeps the canonical form. -/
theorem Memory.writeRange_keeps_wf (bs : List Byte) (m : Memory) (a : Nat) (h : Memory.wf m) :
    Memory.wf (Memory.writeRange m a bs) := by
  induction bs generalizing m a with
  | nil => exact h
  | cons b bs ih => exact ih _ _ (Memory.write_keeps_wf m a b h)

/-- Every entry after a range write is an old one or lies in the range. -/
theorem Memory.mem_writeRange (bs : List Byte) (m : Memory) (a : Nat) (c : Host.Cell)
    (h : c ∈ Memory.writeRange m a bs) : c ∈ m ∨ (a ≤ c.1 ∧ c.1 < a + bs.length) := by
  induction bs generalizing m a with
  | nil => exact .inl h
  | cons b bs ih =>
    rcases ih _ _ h with h | h
    · rcases Memory.mem_write m a b c h with h | h
      · subst h; exact .inr (by simp)
      · exact .inl h
    · exact .inr (by simp only [List.length_cons]; omega)

/-- A listed address holds its entry, in a canonical memory. -/
theorem Memory.cell_of_mem (m : Memory) (h : Memory.wf m) (c : Host.Cell) (hc : c ∈ m) : Memory.cell m c.1 = some c.2 := by
  induction m with
  | nil => exact absurd hc (by simp)
  | cons d m ih =>
    obtain ⟨hd, hm⟩ := List.pairwise_cons.mp h
    rcases List.mem_cons.mp hc with hc | hc
    · subst hc; simp [Memory.cell]
    · have hne : d.1 ≠ c.1 := Nat.ne_of_lt (hd c hc)
      simp [Memory.cell, hne, ih hm hc]

/-- A cell that holds a byte is an entry. -/
theorem Memory.mem_of_cell (m : Memory) (a : Nat) (b : Byte) (h : Memory.cell m a = some b) : (a, b) ∈ m := by
  induction m with
  | nil => exact absurd h (by simp)
  | cons d m ih =>
    obtain ⟨y, e⟩ := d
    simp only [Memory.cell] at h
    split at h
    · rename_i hy
      cases h
      exact hy ▸ List.mem_cons_self
    · exact List.mem_cons_of_mem _ (ih h)

/-- Equal memories are equal data: canonical memories with the same cells are the same list. -/
theorem Memory.ext_cells (m n : Memory) (hm : Memory.wf m) (hn : Memory.wf n)
    (h : ∀ a, Memory.cell m a = Memory.cell n a) : m = n := by
  have hsub : ∀ {m n : Memory}, Memory.wf m → (∀ a, Memory.cell m a = Memory.cell n a) → ∀ c, c ∈ m → c ∈ n := by
    intro m n hm h c hc
    exact Memory.mem_of_cell n c.1 c.2 ((h c.1).symm.trans (Memory.cell_of_mem m hm c hc))
  refine List.Perm.eq_of_pairwise (le := fun x y : Host.Cell => x.1 < y.1) ?_ hm hn ?_
  · intro x y _ _ h1 h2
    exact absurd h2 (Nat.lt_asymm h1)
  · have nd : ∀ {m : Memory}, Memory.wf m → m.Nodup := fun h => h.imp fun hlt heq => by
      rw [heq] at hlt; exact Nat.lt_irrefl _ hlt
    exact (List.perm_ext_iff_of_nodup (nd hm) (nd hn)).mpr fun c =>
      ⟨hsub hm h c, hsub hn (fun a => (h a).symm) c⟩

end Sys2Proof.Machine
end

