-- ==== Sys2Proof/Laws/State.lean ====
section
/-! SUPPORT. One lemma per field of State per shared update, true by definition, and how the named ends of a command unfold
to `State.complete`. -/

namespace Sys2Proof.Machine

/-! Completion (`60_exceptions.md` R206). -/

@[simp] theorem State.complete_params (code : ResultCode) (n : Nat) (s : State) : (State.complete code n s).params = s.params := rfl
@[simp] theorem State.complete_irqEn (code : ResultCode) (n : Nat) (s : State) : (State.complete code n s).irqEn = s.irqEn := rfl
@[simp] theorem State.complete_busy (code : ResultCode) (n : Nat) (s : State) : (State.complete code n s).busy = false := rfl
@[simp] theorem State.complete_done (code : ResultCode) (n : Nat) (s : State) : (State.complete code n s).done = true := rfl
@[simp] theorem State.complete_err (code : ResultCode) (n : Nat) (s : State) : (State.complete code n s).err = decide (code ≠ .ok) := rfl
@[simp] theorem State.complete_errcode (code : ResultCode) (n : Nat) (s : State) : (State.complete code n s).errcode = codeByte code := rfl
@[simp] theorem State.complete_cmd (code : ResultCode) (n : Nat) (s : State) : (State.complete code n s).cmd = s.cmd := rfl
@[simp] theorem State.complete_src (code : ResultCode) (n : Nat) (s : State) : (State.complete code n s).src = s.src := rfl
@[simp] theorem State.complete_dst (code : ResultCode) (n : Nat) (s : State) : (State.complete code n s).dst = s.dst := rfl
@[simp] theorem State.complete_len (code : ResultCode) (n : Nat) (s : State) : (State.complete code n s).len = s.len := rfl
@[simp] theorem State.complete_width (code : ResultCode) (n : Nat) (s : State) : (State.complete code n s).width = s.width := rfl
@[simp] theorem State.complete_height (code : ResultCode) (n : Nat) (s : State) : (State.complete code n s).height = s.height := rfl
@[simp] theorem State.complete_offset (code : ResultCode) (n : Nat) (s : State) : (State.complete code n s).offset = s.offset := rfl
@[simp] theorem State.complete_gainR (code : ResultCode) (n : Nat) (s : State) : (State.complete code n s).gainR = s.gainR := rfl
@[simp] theorem State.complete_gainG (code : ResultCode) (n : Nat) (s : State) : (State.complete code n s).gainG = s.gainG := rfl
@[simp] theorem State.complete_gainB (code : ResultCode) (n : Nat) (s : State) : (State.complete code n s).gainB = s.gainB := rfl
@[simp] theorem State.complete_outLen (code : ResultCode) (n : Nat) (s : State) : (State.complete code n s).outLen = BitVec.ofNat 32 n := rfl
@[simp] theorem State.complete_maxval (code : ResultCode) (n : Nat) (s : State) : (State.complete code n s).maxval = s.maxval := rfl
@[simp] theorem State.complete_mem (code : ResultCode) (n : Nat) (s : State) : (State.complete code n s).mem = s.mem := rfl
@[simp] theorem State.complete_faults (code : ResultCode) (n : Nat) (s : State) : (State.complete code n s).faults = s.faults := rfl
@[simp] theorem State.complete_events (code : ResultCode) (n : Nat) (s : State) : (State.complete code n s).events = s.events := rfl
@[simp] theorem State.complete_reads (code : ResultCode) (n : Nat) (s : State) : (State.complete code n s).reads = s.reads := rfl

/-! Storing bytes. -/

@[simp] theorem State.store_params (a : Nat) (bs : List Byte) (s : State) : (State.store a bs s).params = s.params := rfl
@[simp] theorem State.store_irqEn (a : Nat) (bs : List Byte) (s : State) : (State.store a bs s).irqEn = s.irqEn := rfl
@[simp] theorem State.store_busy (a : Nat) (bs : List Byte) (s : State) : (State.store a bs s).busy = s.busy := rfl
@[simp] theorem State.store_done (a : Nat) (bs : List Byte) (s : State) : (State.store a bs s).done = s.done := rfl
@[simp] theorem State.store_err (a : Nat) (bs : List Byte) (s : State) : (State.store a bs s).err = s.err := rfl
@[simp] theorem State.store_errcode (a : Nat) (bs : List Byte) (s : State) : (State.store a bs s).errcode = s.errcode := rfl
@[simp] theorem State.store_cmd (a : Nat) (bs : List Byte) (s : State) : (State.store a bs s).cmd = s.cmd := rfl
@[simp] theorem State.store_src (a : Nat) (bs : List Byte) (s : State) : (State.store a bs s).src = s.src := rfl
@[simp] theorem State.store_dst (a : Nat) (bs : List Byte) (s : State) : (State.store a bs s).dst = s.dst := rfl
@[simp] theorem State.store_len (a : Nat) (bs : List Byte) (s : State) : (State.store a bs s).len = s.len := rfl
@[simp] theorem State.store_width (a : Nat) (bs : List Byte) (s : State) : (State.store a bs s).width = s.width := rfl
@[simp] theorem State.store_height (a : Nat) (bs : List Byte) (s : State) : (State.store a bs s).height = s.height := rfl
@[simp] theorem State.store_offset (a : Nat) (bs : List Byte) (s : State) : (State.store a bs s).offset = s.offset := rfl
@[simp] theorem State.store_gainR (a : Nat) (bs : List Byte) (s : State) : (State.store a bs s).gainR = s.gainR := rfl
@[simp] theorem State.store_gainG (a : Nat) (bs : List Byte) (s : State) : (State.store a bs s).gainG = s.gainG := rfl
@[simp] theorem State.store_gainB (a : Nat) (bs : List Byte) (s : State) : (State.store a bs s).gainB = s.gainB := rfl
@[simp] theorem State.store_outLen (a : Nat) (bs : List Byte) (s : State) : (State.store a bs s).outLen = s.outLen := rfl
@[simp] theorem State.store_maxval (a : Nat) (bs : List Byte) (s : State) : (State.store a bs s).maxval = s.maxval := rfl
@[simp] theorem State.store_mem (a : Nat) (bs : List Byte) (s : State) : (State.store a bs s).mem = Memory.writeRange s.mem a bs := rfl
@[simp] theorem State.store_faults (a : Nat) (bs : List Byte) (s : State) : (State.store a bs s).faults = s.faults := rfl
@[simp] theorem State.store_events (a : Nat) (bs : List Byte) (s : State) : (State.store a bs s).events = s.events := rfl
@[simp] theorem State.store_reads (a : Nat) (bs : List Byte) (s : State) : (State.store a bs s).reads = s.reads := rfl

/-! MAXVAL. -/

@[simp] theorem State.setMaxval_params (v : Nat) (s : State) : (State.setMaxval v s).params = s.params := rfl
@[simp] theorem State.setMaxval_irqEn (v : Nat) (s : State) : (State.setMaxval v s).irqEn = s.irqEn := rfl
@[simp] theorem State.setMaxval_busy (v : Nat) (s : State) : (State.setMaxval v s).busy = s.busy := rfl
@[simp] theorem State.setMaxval_done (v : Nat) (s : State) : (State.setMaxval v s).done = s.done := rfl
@[simp] theorem State.setMaxval_err (v : Nat) (s : State) : (State.setMaxval v s).err = s.err := rfl
@[simp] theorem State.setMaxval_errcode (v : Nat) (s : State) : (State.setMaxval v s).errcode = s.errcode := rfl
@[simp] theorem State.setMaxval_cmd (v : Nat) (s : State) : (State.setMaxval v s).cmd = s.cmd := rfl
@[simp] theorem State.setMaxval_src (v : Nat) (s : State) : (State.setMaxval v s).src = s.src := rfl
@[simp] theorem State.setMaxval_dst (v : Nat) (s : State) : (State.setMaxval v s).dst = s.dst := rfl
@[simp] theorem State.setMaxval_len (v : Nat) (s : State) : (State.setMaxval v s).len = s.len := rfl
@[simp] theorem State.setMaxval_width (v : Nat) (s : State) : (State.setMaxval v s).width = s.width := rfl
@[simp] theorem State.setMaxval_height (v : Nat) (s : State) : (State.setMaxval v s).height = s.height := rfl
@[simp] theorem State.setMaxval_offset (v : Nat) (s : State) : (State.setMaxval v s).offset = s.offset := rfl
@[simp] theorem State.setMaxval_gainR (v : Nat) (s : State) : (State.setMaxval v s).gainR = s.gainR := rfl
@[simp] theorem State.setMaxval_gainG (v : Nat) (s : State) : (State.setMaxval v s).gainG = s.gainG := rfl
@[simp] theorem State.setMaxval_gainB (v : Nat) (s : State) : (State.setMaxval v s).gainB = s.gainB := rfl
@[simp] theorem State.setMaxval_outLen (v : Nat) (s : State) : (State.setMaxval v s).outLen = s.outLen := rfl
@[simp] theorem State.setMaxval_maxval (v : Nat) (s : State) : (State.setMaxval v s).maxval = BitVec.ofNat 16 v := rfl
@[simp] theorem State.setMaxval_mem (v : Nat) (s : State) : (State.setMaxval v s).mem = s.mem := rfl
@[simp] theorem State.setMaxval_faults (v : Nat) (s : State) : (State.setMaxval v s).faults = s.faults := rfl
@[simp] theorem State.setMaxval_events (v : Nat) (s : State) : (State.setMaxval v s).events = s.events := rfl
@[simp] theorem State.setMaxval_reads (v : Nat) (s : State) : (State.setMaxval v s).reads = s.reads := rfl

/-! Recording a fault. -/

@[simp] theorem State.record_params (f : Fault) (s : State) : (State.record f s).params = s.params := rfl
@[simp] theorem State.record_irqEn (f : Fault) (s : State) : (State.record f s).irqEn = s.irqEn := rfl
@[simp] theorem State.record_busy (f : Fault) (s : State) : (State.record f s).busy = s.busy := rfl
@[simp] theorem State.record_done (f : Fault) (s : State) : (State.record f s).done = s.done := rfl
@[simp] theorem State.record_err (f : Fault) (s : State) : (State.record f s).err = s.err := rfl
@[simp] theorem State.record_errcode (f : Fault) (s : State) : (State.record f s).errcode = s.errcode := rfl
@[simp] theorem State.record_cmd (f : Fault) (s : State) : (State.record f s).cmd = s.cmd := rfl
@[simp] theorem State.record_src (f : Fault) (s : State) : (State.record f s).src = s.src := rfl
@[simp] theorem State.record_dst (f : Fault) (s : State) : (State.record f s).dst = s.dst := rfl
@[simp] theorem State.record_len (f : Fault) (s : State) : (State.record f s).len = s.len := rfl
@[simp] theorem State.record_width (f : Fault) (s : State) : (State.record f s).width = s.width := rfl
@[simp] theorem State.record_height (f : Fault) (s : State) : (State.record f s).height = s.height := rfl
@[simp] theorem State.record_offset (f : Fault) (s : State) : (State.record f s).offset = s.offset := rfl
@[simp] theorem State.record_gainR (f : Fault) (s : State) : (State.record f s).gainR = s.gainR := rfl
@[simp] theorem State.record_gainG (f : Fault) (s : State) : (State.record f s).gainG = s.gainG := rfl
@[simp] theorem State.record_gainB (f : Fault) (s : State) : (State.record f s).gainB = s.gainB := rfl
@[simp] theorem State.record_outLen (f : Fault) (s : State) : (State.record f s).outLen = s.outLen := rfl
@[simp] theorem State.record_maxval (f : Fault) (s : State) : (State.record f s).maxval = s.maxval := rfl
@[simp] theorem State.record_mem (f : Fault) (s : State) : (State.record f s).mem = s.mem := rfl
@[simp] theorem State.record_faults (f : Fault) (s : State) : (State.record f s).faults = FaultSet.add f s.faults := rfl
@[simp] theorem State.record_events (f : Fault) (s : State) : (State.record f s).events = s.events := rfl
@[simp] theorem State.record_reads (f : Fault) (s : State) : (State.record f s).reads = s.reads := rfl

/-! Issue (`10_state.md` R26). -/

@[simp] theorem State.issue_params (v : Word) (s : State) : (State.issue v s).params = s.params := rfl
@[simp] theorem State.issue_irqEn (v : Word) (s : State) : (State.issue v s).irqEn = s.irqEn := rfl
@[simp] theorem State.issue_busy (v : Word) (s : State) : (State.issue v s).busy = true := rfl
@[simp] theorem State.issue_done (v : Word) (s : State) : (State.issue v s).done = false := rfl
@[simp] theorem State.issue_err (v : Word) (s : State) : (State.issue v s).err = false := rfl
@[simp] theorem State.issue_errcode (v : Word) (s : State) : (State.issue v s).errcode = 0 := rfl
@[simp] theorem State.issue_cmd (v : Word) (s : State) : (State.issue v s).cmd = v := rfl
@[simp] theorem State.issue_src (v : Word) (s : State) : (State.issue v s).src = s.src := rfl
@[simp] theorem State.issue_dst (v : Word) (s : State) : (State.issue v s).dst = s.dst := rfl
@[simp] theorem State.issue_len (v : Word) (s : State) : (State.issue v s).len = s.len := rfl
@[simp] theorem State.issue_width (v : Word) (s : State) : (State.issue v s).width = s.width := rfl
@[simp] theorem State.issue_height (v : Word) (s : State) : (State.issue v s).height = s.height := rfl
@[simp] theorem State.issue_offset (v : Word) (s : State) : (State.issue v s).offset = s.offset := rfl
@[simp] theorem State.issue_gainR (v : Word) (s : State) : (State.issue v s).gainR = s.gainR := rfl
@[simp] theorem State.issue_gainG (v : Word) (s : State) : (State.issue v s).gainG = s.gainG := rfl
@[simp] theorem State.issue_gainB (v : Word) (s : State) : (State.issue v s).gainB = s.gainB := rfl
@[simp] theorem State.issue_outLen (v : Word) (s : State) : (State.issue v s).outLen = s.outLen := rfl
@[simp] theorem State.issue_maxval (v : Word) (s : State) : (State.issue v s).maxval = s.maxval := rfl
@[simp] theorem State.issue_mem (v : Word) (s : State) : (State.issue v s).mem = s.mem := rfl
@[simp] theorem State.issue_faults (v : Word) (s : State) : (State.issue v s).faults = s.faults := rfl
@[simp] theorem State.issue_events (v : Word) (s : State) : (State.issue v s).events = s.events := rfl
@[simp] theorem State.issue_reads (v : Word) (s : State) : (State.issue v s).reads = s.reads := rfl

/-! Soft reset (`70_reset_and_hazards.md` R231). -/

@[simp] theorem State.softReset_params (s : State) : (State.softReset s).params = s.params := rfl
@[simp] theorem State.softReset_irqEn (s : State) : (State.softReset s).irqEn = false := rfl
@[simp] theorem State.softReset_busy (s : State) : (State.softReset s).busy = false := rfl
@[simp] theorem State.softReset_done (s : State) : (State.softReset s).done = false := rfl
@[simp] theorem State.softReset_err (s : State) : (State.softReset s).err = false := rfl
@[simp] theorem State.softReset_errcode (s : State) : (State.softReset s).errcode = 0 := rfl
@[simp] theorem State.softReset_cmd (s : State) : (State.softReset s).cmd = 0 := rfl
@[simp] theorem State.softReset_src (s : State) : (State.softReset s).src = 0 := rfl
@[simp] theorem State.softReset_dst (s : State) : (State.softReset s).dst = 0 := rfl
@[simp] theorem State.softReset_len (s : State) : (State.softReset s).len = 0 := rfl
@[simp] theorem State.softReset_width (s : State) : (State.softReset s).width = 0 := rfl
@[simp] theorem State.softReset_height (s : State) : (State.softReset s).height = 0 := rfl
@[simp] theorem State.softReset_offset (s : State) : (State.softReset s).offset = 0 := rfl
@[simp] theorem State.softReset_gainR (s : State) : (State.softReset s).gainR = 0x0400 := rfl
@[simp] theorem State.softReset_gainG (s : State) : (State.softReset s).gainG = 0x0400 := rfl
@[simp] theorem State.softReset_gainB (s : State) : (State.softReset s).gainB = 0x0400 := rfl
@[simp] theorem State.softReset_outLen (s : State) : (State.softReset s).outLen = 0 := rfl
@[simp] theorem State.softReset_maxval (s : State) : (State.softReset s).maxval = 0 := rfl
@[simp] theorem State.softReset_mem (s : State) : (State.softReset s).mem = s.mem := rfl
@[simp] theorem State.softReset_faults (s : State) : (State.softReset s).faults = s.faults := rfl
@[simp] theorem State.softReset_events (s : State) : (State.softReset s).events = s.events := rfl
@[simp] theorem State.softReset_reads (s : State) : (State.softReset s).reads = s.reads := rfl

/-! A read's return. -/

@[simp] theorem State.returnRead_params (d : ReadData) (s : State) : (State.returnRead d s).params = s.params := rfl
@[simp] theorem State.returnRead_irqEn (d : ReadData) (s : State) : (State.returnRead d s).irqEn = s.irqEn := rfl
@[simp] theorem State.returnRead_busy (d : ReadData) (s : State) : (State.returnRead d s).busy = s.busy := rfl
@[simp] theorem State.returnRead_done (d : ReadData) (s : State) : (State.returnRead d s).done = s.done := rfl
@[simp] theorem State.returnRead_err (d : ReadData) (s : State) : (State.returnRead d s).err = s.err := rfl
@[simp] theorem State.returnRead_errcode (d : ReadData) (s : State) : (State.returnRead d s).errcode = s.errcode := rfl
@[simp] theorem State.returnRead_cmd (d : ReadData) (s : State) : (State.returnRead d s).cmd = s.cmd := rfl
@[simp] theorem State.returnRead_src (d : ReadData) (s : State) : (State.returnRead d s).src = s.src := rfl
@[simp] theorem State.returnRead_dst (d : ReadData) (s : State) : (State.returnRead d s).dst = s.dst := rfl
@[simp] theorem State.returnRead_len (d : ReadData) (s : State) : (State.returnRead d s).len = s.len := rfl
@[simp] theorem State.returnRead_width (d : ReadData) (s : State) : (State.returnRead d s).width = s.width := rfl
@[simp] theorem State.returnRead_height (d : ReadData) (s : State) : (State.returnRead d s).height = s.height := rfl
@[simp] theorem State.returnRead_offset (d : ReadData) (s : State) : (State.returnRead d s).offset = s.offset := rfl
@[simp] theorem State.returnRead_gainR (d : ReadData) (s : State) : (State.returnRead d s).gainR = s.gainR := rfl
@[simp] theorem State.returnRead_gainG (d : ReadData) (s : State) : (State.returnRead d s).gainG = s.gainG := rfl
@[simp] theorem State.returnRead_gainB (d : ReadData) (s : State) : (State.returnRead d s).gainB = s.gainB := rfl
@[simp] theorem State.returnRead_outLen (d : ReadData) (s : State) : (State.returnRead d s).outLen = s.outLen := rfl
@[simp] theorem State.returnRead_maxval (d : ReadData) (s : State) : (State.returnRead d s).maxval = s.maxval := rfl
@[simp] theorem State.returnRead_mem (d : ReadData) (s : State) : (State.returnRead d s).mem = s.mem := rfl
@[simp] theorem State.returnRead_faults (d : ReadData) (s : State) : (State.returnRead d s).faults = s.faults := rfl
@[simp] theorem State.returnRead_events (d : ReadData) (s : State) : (State.returnRead d s).events = s.events := rfl
@[simp] theorem State.returnRead_reads (d : ReadData) (s : State) : (State.returnRead d s).reads = d :: s.reads := rfl

/-! The ends of a command. -/

@[simp] theorem State.raise_eq (code : ResultCode) (s : State) : State.raise code s = State.complete code 0 s := rfl
@[simp] theorem State.finish_eq (n : Nat) (s : State) : State.finish n s = State.complete .ok n s := rfl

@[simp] theorem codeByte_ok : codeByte .ok = 0#8 := rfl

/-- OK is the only result code whose byte is 0 (`60_exceptions.md` R201). -/
@[simp] theorem codeByte_eq_zero_iff (c : ResultCode) : codeByte c = 0#8 ↔ c = .ok := by
  cases c <;> decide

/-- The result codes have distinct bytes (`60_exceptions.md` R201). -/
theorem codeByte_injective : Function.Injective codeByte := by
  intro a b h
  cases a <;> cases b <;> first | rfl | exact absurd h (by decide)

end Sys2Proof.Machine
end

