-- ==== Sys2Proof/Laws/Ops.lean ====
section
/-! SUPPORT. One lemma per shared operation that says once all it can do: the check table, the completion of a command, the
lengths of what commands write, the engine's turn and a host operation. -/

namespace Sys2Proof.Machine

/-- No check fails exactly when no condition holds (`60_exceptions.md` R202). -/
theorem firstFailing_eq_none_iff (cs : List Check) : firstFailing cs = none ↔ ∀ c ∈ cs, c.1 = false := by
  induction cs with
  | nil => simp [firstFailing]
  | cons c cs ih =>
    obtain ⟨holds, code⟩ := c
    cases holds <;> simp [firstFailing, ih]

/-- The reported code stands in the table, at a step whose condition holds. -/
theorem firstFailing_mem (cs : List Check) (code : ResultCode) (h : firstFailing cs = some code) : (true, code) ∈ cs := by
  induction cs with
  | nil => exact absurd h (by simp [firstFailing])
  | cons c cs ih =>
    obtain ⟨holds, k⟩ := c
    cases holds
    · exact List.mem_cons_of_mem _ (ih (by simpa [firstFailing] using h))
    · have : k = code := by simpa [firstFailing] using h
      exact this ▸ List.mem_cons_self

/-- All a completion step can do (`60_exceptions.md` R206): raise the first failing check's code, or run the pseudocode. -/
theorem runCommand_cases {checks : List Check} {body : State → State} {s t : State}
    (h : runCommand checks body s = .next t) :
    (∃ code, firstFailing checks = some code ∧ t = State.raise code s) ∨ (firstFailing checks = none ∧ t = body s) := by
  simp only [runCommand] at h
  split at h
  · rename_i code hc
    exact .inl ⟨code, hc, by injection h with h; exact h.symm⟩
  · rename_i hc
    exact .inr ⟨hc, by injection h with h; exact h.symm⟩

/-- A completion step always answers a next state. -/
theorem runCommand_answers (checks : List Check) (body : State → State) (s : State) :
    ∃ t, runCommand checks body s = .next t := by
  simp only [runCommand]
  split <;> exact ⟨_, rfl⟩

/-- With no failing check the pseudocode runs. -/
theorem runCommand_of_none {checks : List Check} {body : State → State} {s : State} (h : firstFailing checks = none) :
    runCommand checks body s = .next (body s) := by
  simp [runCommand, h]

@[simp] theorem byteList_length (vs : List Nat) : (byteList vs).length = vs.length := by simp [byteList]

@[simp] theorem wordBytes_length (o : WordOrder) (v : Nat) : (wordBytes o v).length = 2 := by cases o <;> rfl

@[simp] theorem wordListBytes_length (o : WordOrder) (ws : List Nat) : (wordListBytes o ws).length = 2 * ws.length := by
  induction ws with
  | nil => rfl
  | cons w ws ih =>
    rw [wordListBytes, List.flatMap_cons, List.length_append, wordBytes_length, ← wordListBytes, ih, List.length_cons]
    omega

/-- Byte 2i and byte 2i + 1 of a word list are the two bytes of word i. -/
theorem wordListBytes_getElem? (o : WordOrder) (ws : List Nat) (i j : Nat) (hi : i < ws.length) (hj : j < 2) :
    (wordListBytes o ws)[2 * i + j]? = (wordBytes o ws[i])[j]? := by
  induction ws generalizing i with
  | nil => exact absurd hi (by simp)
  | cons w ws ih =>
    rw [wordListBytes, List.flatMap_cons, ← wordListBytes]
    cases i with
    | zero => rw [List.getElem?_append_left (by simpa using hj)]; simp
    | succ i =>
      rw [List.getElem?_append_right (by simp; omega), wordBytes_length,
        show 2 * (i + 1) + j - 2 = 2 * i + j by omega, ih i (by simpa using hi)]
      simp

@[simp] theorem samples_length (bpp : Bpp) (hz : Bool) (ch : BitVec 2) (s : State) :
    (samples bpp hz ch s).length = sampleCount ch s := by simp [samples]

@[simp] theorem elements_length (bpp : Bpp) (n : Nat) (s : State) : (elements bpp n s).length = n := by simp [elements]

@[simp] theorem normalize_length (r : NormRound) (xs : List Nat) : (normalize r xs).length = xs.length := by
  simp [normalize]

@[simp] theorem reversedGroups_length (m : Memory) (base g n : Nat) : (reversedGroups m base g n).length = n := by
  simp [reversedGroups]

@[simp] theorem demosaicKernel_length (l : Layout) (t : Target) (depth w h : Nat) (xs : List Nat) :
    (demosaicKernel l t depth w h xs).length = w * h * targetChannels t := by simp [demosaicKernel]

/-- All a memory access check can answer (`20_memory.md` R61, `70_reset_and_hazards.md` R237). -/
theorem memAccessFault_cases (a : Nat) (s : State) :
    (s.params.memSize ≤ a ∧ memAccessFault a s = some .hostBadAccess) ∨
    (a < s.params.memSize ∧ s.busy = true ∧ memAccessFault a s = some .hostRace) ∨
    (a < s.params.memSize ∧ s.busy = false ∧ memAccessFault a s = none) := by
  simp only [memAccessFault]
  by_cases h : a ≥ s.params.memSize
  · exact .inl ⟨h, by simp [h]⟩
  · cases hb : s.busy
    · exact .inr (.inr ⟨by omega, rfl, by simp [h]⟩)
    · exact .inr (.inl ⟨by omega, rfl, by simp [h]⟩)

/-- All a register write can do (`10_state.md` R25, R26, R35, R39, R41). -/
theorem writeReg_cases (r : Reg) (v : Word) (s : State) :
    (s.busy = true ∧ writeReg r v s = s) ∨ (s.busy = false ∧ writeReg r v s = writeRegIdle r v s) := by
  cases hb : s.busy
  · exact .inr ⟨rfl, by simp [writeReg, hb]⟩
  · exact .inl ⟨rfl, by simp [writeReg, hb]⟩

/-- All a step can do (`20_memory.md` R72): the engine's turn, or one host operation. -/
theorem step_cases (s : State) :
    (s.events = [] ∧ step s = engineStep s) ∨
    (∃ rest, s.events = .engine :: rest ∧ step s = engineStep { s with events := rest }) ∨
    (∃ op rest, s.events = .host op :: rest ∧ step s = .next (hostStep op { s with events := rest })) := by
  cases h : s.events with
  | nil => exact .inl ⟨rfl, by simp [step, h]⟩
  | cons e rest =>
    cases e with
    | host op => exact .inr (.inr ⟨op, rest, rfl, by simp [step, h]⟩)
    | engine => exact .inr (.inl ⟨rest, rfl, by simp [step, h]⟩)

/-- All the engine's turn can do (`60_exceptions.md` R205, R206). -/
theorem engineStep_cases (s : State) :
    (s.busy = false ∧ engineStep s = .next s) ∨
    (∃ e, s.busy = true ∧ decode s.cmd = .error e ∧ engineStep s = .next (State.raise (decodeErrorCode e) s)) ∨
    (∃ i, s.busy = true ∧ decode s.cmd = .ok i ∧ engineStep s = exec i s) := by
  cases hb : s.busy
  · exact .inl ⟨rfl, by simp [engineStep, hb]⟩
  · cases hd : decode s.cmd with
    | error e => exact .inr (.inl ⟨e, rfl, rfl, by simp [engineStep, hb, completeWord, hd]⟩)
    | ok i => exact .inr (.inr ⟨i, rfl, rfl, by simp [engineStep, hb, completeWord, hd]⟩)

end Sys2Proof.Machine
end

