-- ==== Sys2Proof/Laws/Commands.lean ====
section
/-! SUPPORT. For each command: its check table finds nothing exactly when the command is ready in the terms of Safety.lean,
and what its pseudocode makes of the state, field by field. -/

namespace Sys2Proof.Machine

/-- A 16-bit dimension is zero as a number exactly when it is zero as a field. -/
theorem half_toNat_eq_zero_iff (w : Half) : w.toNat = 0 ↔ w = 0#16 := by
  rw [← BitVec.toNat_inj]; simp

/-- The channel check of step 6 is the channel rule of `30_encoding.md` R86. -/
theorem channelsLegal_iff (ch : BitVec 2) : channelsLegal ch = true ↔ ch.toNat = 1 ∨ ch.toNat = 3 := by
  revert ch; decide

/-- A gain passes step 9 exactly when it is legal (`10_state.md` R32). -/
theorem gainIllegal_eq_false_iff (g : Half) : gainIllegal g = false ↔ gainLegal g := by
  rw [gainIllegal, Bool.or_eq_false_iff]
  constructor
  · rintro ⟨h1, h2⟩
    have h1 := of_decide_eq_false h1
    have h2 := of_decide_eq_false h2
    simp only [gainValue] at h1 h2
    exact ⟨by omega, by omega⟩
  · rintro ⟨h1, h2⟩
    exact ⟨decide_eq_false (by simp only [gainValue]; omega), decide_eq_false (by simp only [gainValue]; omega)⟩

/-! What each step of the check table finds (`60_exceptions.md` R202). -/

theorem checkBpp_passes (accepted : List Bpp) (bpp : Bpp) : (checkBpp accepted bpp).1 = false ↔ bpp ∈ accepted := by
  simp [checkBpp]

theorem checkBpp_depth8_passes (bpp : Bpp) : (checkBpp [.depth8] bpp).1 = false ↔ bpp = .depth8 := by
  simp [checkBpp]

theorem checkHz16_passes (bpp : Bpp) (hz : Bool) : (checkHz16 bpp hz).1 = false ↔ ¬(bpp = .depth16 ∧ hz = true) := by
  cases bpp <;> cases hz <;> decide

theorem checkMode_passes (mode : BitVec 3) : (checkMode mode).1 = false ↔ mode.toNat ≤ 5 := by simp [checkMode]

theorem checkChannels_passes (ch : BitVec 2) : (checkChannels ch).1 = false ↔ channelsLegal ch = true := by
  revert ch; decide

theorem checkOneChannel_passes (ch : BitVec 2) : (checkOneChannel ch).1 = false ↔ ch = 1 := by
  revert ch; decide

theorem checkGroup_passes (group : BitVec 4) : (checkGroup group).1 = false ↔ group ≠ 0 := by
  revert group; decide

theorem checkDim_passes (s : State) : (checkDim s).1 = false ↔ s.width ≠ 0 ∧ s.height ≠ 0 := by
  simp [checkDim, half_toNat_eq_zero_iff]

theorem checkEvenDim_passes (s : State) : (checkEvenDim s).1 = false ↔ mosaicDims s := by
  simp [checkEvenDim, mosaicDims, half_toNat_eq_zero_iff, and_assoc]

theorem checkGains_passes (s : State) :
    (checkGains s).1 = false ↔ gainLegal s.gainR ∧ gainLegal s.gainG ∧ gainLegal s.gainB := by
  simp only [checkGains, Bool.or_eq_false_iff, gainIllegal_eq_false_iff, and_assoc]

theorem checkGroups_passes (group : BitVec 4) (s : State) :
    (checkGroups group s).1 = false ↔
      s.offset.toNat ≤ s.len.toNat ∧ (s.len.toNat - s.offset.toNat) % group.toNat = 0 := by
  simp [checkGroups]

theorem checkPacked_passes (bpp : Bpp) (hz : Bool) (ch : BitVec 2) (s : State) :
    (checkPacked bpp hz ch s).1 = false ↔
      s.len.toNat = expectedLength bpp hz (sampleCount ch s) ∧ s.len.toNat % stride s.params bpp hz = 0 := by
  simp [checkPacked]

theorem checkLength_passes (n : Nat) (s : State) : (checkLength n s).1 = false ↔ s.len.toNat = n := by
  simp [checkLength]

theorem checkSource_passes (s : State) : (checkSource s).1 = false ↔ s.src.toNat + s.len.toNat ≤ s.params.memSize := by
  simp [checkSource]

theorem checkDestination_passes (n : Nat) (s : State) :
    (checkDestination n s).1 = false ↔ s.dst.toNat + n ≤ s.params.memSize := by simp [checkDestination]

/-- Steps 3 and 4 pass exactly when the depth and HZ are legal (`30_encoding.md` R83, R84). -/
theorem unpackDepthLegal_iff (bpp : Bpp) (hz : Bool) :
    unpackDepthLegal bpp hz = true ↔
      bpp ∈ [Bpp.depth8, Bpp.depth12, Bpp.depth16] ∧ ¬(bpp = .depth16 ∧ hz = true) := by
  cases bpp <;> cases hz <;> decide

theorem elementDepthLegal_iff (bpp : Bpp) : elementDepthLegal bpp = true ↔ bpp ∈ [Bpp.depth8, Bpp.depth16] := by
  cases bpp <;> decide

/-! When a command fails no check. -/

/-- ENDIAN fails no check exactly when it is ready. -/
theorem endianChecks_none_iff (group : BitVec 4) (s : State) :
    firstFailing (endianChecks group s) = none ↔ endianReady group s := by
  simp only [firstFailing_eq_none_iff, endianChecks, List.forall_mem_cons, checkGroup_passes, checkGroups_passes,
    checkSource_passes, List.not_mem_nil, IsEmpty.forall_iff, implies_true, and_true, and_assoc]

/-- UNPACK8, UNPACK16 and STRETCH16 fail no check exactly when they are ready. -/
theorem packedChecks_none_iff (bpp : Bpp) (hz : Bool) (ch : BitVec 2) (n : Nat) (s : State) :
    firstFailing (packedChecks bpp hz ch n s) = none ↔ packedReady bpp hz ch n s := by
  simp only [firstFailing_eq_none_iff, packedChecks, List.forall_mem_cons, checkBpp_passes, checkHz16_passes,
    checkChannels_passes, checkDim_passes, checkPacked_passes, checkSource_passes, checkDestination_passes, packedReady,
    unpackDepthLegal_iff, List.not_mem_nil, IsEmpty.forall_iff, implies_true, and_true, and_assoc]

/-- WINDOW8 fails no check exactly when MODE is at most 5 and it is ready. -/
theorem window8Checks_none_iff (bpp : Bpp) (hz : Bool) (mode : BitVec 3) (ch : BitVec 2) (s : State) :
    firstFailing (window8Checks bpp hz mode ch s) = none ↔
      mode.toNat ≤ 5 ∧ packedReady bpp hz ch (sampleCount ch s) s := by
  rw [← packedChecks_none_iff, firstFailing_eq_none_iff, firstFailing_eq_none_iff]
  simp only [window8Checks, packedChecks, List.forall_mem_cons, checkMode_passes]
  tauto

/-- NORM8 fails no check exactly when it is ready. -/
theorem norm8Checks_none_iff (bpp : Bpp) (ch : BitVec 2) (s : State) :
    firstFailing (norm8Checks bpp ch s) = none ↔ norm8Ready bpp ch s := by
  simp only [firstFailing_eq_none_iff, norm8Checks, List.forall_mem_cons, checkBpp_passes, checkChannels_passes,
    checkDim_passes, checkLength_passes, checkSource_passes, checkDestination_passes, norm8Ready, elementDepthLegal_iff,
    List.not_mem_nil, IsEmpty.forall_iff, implies_true, and_true, and_assoc]

/-- GAIN fails no check exactly when it is ready. -/
theorem gainChecks_none_iff (bpp : Bpp) (ch : BitVec 2) (s : State) :
    firstFailing (gainChecks bpp ch s) = none ↔ gainReady bpp ch s := by
  simp only [firstFailing_eq_none_iff, gainChecks, List.forall_mem_cons, checkBpp_depth8_passes, checkOneChannel_passes,
    checkEvenDim_passes, checkGains_passes, checkLength_passes, checkSource_passes, checkDestination_passes, gainReady,
    List.not_mem_nil, IsEmpty.forall_iff, implies_true, and_true, and_assoc]

/-- DEMOSAIC fails no check exactly when it is ready. -/
theorem demosaicChecks_none_iff (bpp : Bpp) (ch : BitVec 2) (target : Target) (s : State) :
    firstFailing (demosaicChecks bpp ch target s) = none ↔ demosaicReady bpp ch target s := by
  simp only [firstFailing_eq_none_iff, demosaicChecks, List.forall_mem_cons, checkBpp_passes, checkOneChannel_passes,
    checkEvenDim_passes, checkLength_passes, checkSource_passes, checkDestination_passes, demosaicReady,
    elementDepthLegal_iff, List.not_mem_nil, IsEmpty.forall_iff, implies_true, and_true, and_assoc]

/-- What storing bytes and finishing makes of a state: the end of every command but the two that set MAXVAL. -/
theorem finish_store_eq (n a : Nat) (bs : List Byte) (s : State) :
    State.finish n (State.store a bs s) =
      { s with
        mem := Memory.writeRange s.mem a bs
        outLen := BitVec.ofNat 32 n
        errcode := 0
        err := false
        done := true
        busy := false } := rfl

/-- The end of NORM8 and of WINDOW8 mode 5. -/
theorem storeNormalized_eq (xs : List Nat) (s : State) :
    storeNormalized xs s =
      { s with
        mem := Memory.writeRange s.mem s.dst.toNat (byteList (normalize s.params.normRound xs))
        maxval := BitVec.ofNat 16 (maxSample xs)
        outLen := BitVec.ofNat 32 xs.length
        errcode := 0
        err := false
        done := true
        busy := false } := rfl

end Sys2Proof.Machine
end

