-- ==== Sys2Proof/Laws/PerInstr.lean ====
section
/-! SUPPORT. One lemma per constructor of Instr: its encoding matches its row of the opcode table (`30_encoding.md` R93). -/

namespace Sys2Proof.Laws

/-- The encoded word carries the row's match under the row's mask. -/
def RowMatch.Statement (i : Instr) : Prop := encode i &&& rowMask i.mnemonic = rowMatch i.mnemonic

theorem RowMatch.endian (group : BitVec 4) : RowMatch.Statement (.endian group) := by
  revert group; unfold RowMatch.Statement; decide

theorem RowMatch.unpack8 (bpp : Bpp) (hz : Bool) (ch : BitVec 2) : RowMatch.Statement (.unpack8 bpp hz ch) := by
  cases bpp <;> revert hz ch <;> unfold RowMatch.Statement <;> decide

theorem RowMatch.unpack16 (bpp : Bpp) (hz : Bool) (ch : BitVec 2) : RowMatch.Statement (.unpack16 bpp hz ch) := by
  cases bpp <;> revert hz ch <;> unfold RowMatch.Statement <;> decide

theorem RowMatch.stretch16 (bpp : Bpp) (hz : Bool) (ch : BitVec 2) : RowMatch.Statement (.stretch16 bpp hz ch) := by
  cases bpp <;> revert hz ch <;> unfold RowMatch.Statement <;> decide

theorem RowMatch.window8 (bpp : Bpp) (hz : Bool) (mode : BitVec 3) (ch : BitVec 2) :
    RowMatch.Statement (.window8 bpp hz mode ch) := by
  cases bpp <;> revert hz mode ch <;> unfold RowMatch.Statement <;> decide

theorem RowMatch.norm8 (bpp : Bpp) (ch : BitVec 2) : RowMatch.Statement (.norm8 bpp ch) := by
  cases bpp <;> revert ch <;> unfold RowMatch.Statement <;> decide

theorem RowMatch.gain (bpp : Bpp) (ch : BitVec 2) (layout : Layout) : RowMatch.Statement (.gain bpp ch layout) := by
  cases bpp <;> cases layout <;> revert ch <;> unfold RowMatch.Statement <;> decide

theorem RowMatch.demosaic (bpp : Bpp) (ch : BitVec 2) (layout : Layout) (target : Target) :
    RowMatch.Statement (.demosaic bpp ch layout target) := by
  cases bpp <;> cases layout <;> cases target <;> revert ch <;> unfold RowMatch.Statement <;> decide

end Sys2Proof.Laws
end

