-- ==== Sys2Proof/Tests/Slice0.lean ====
section
/-! SUPPORT. The model's own tests: words written out from the field table of `30_encoding.md` R81, one ill-formed command
for each form check, one-step tests whose expected bytes are the spec's vectors (`95_test_vectors.md`), and a witness for the
hypotheses of every statement that has some. -/

open Sys2Proof Sys2Proof.Machine Sys2Proof.Claims

namespace Sys2Proof.Tests

/-! States of a 4 KiB block with default parameters. -/

/-- A block after power-on with MEM_SIZE 0x1000. -/
def base : State := State.powerOn (Params.default 0x1000)

/-- A prepared job: SRC 0, DST 0x100, LEN the number of source bytes, DIM as given. -/
def job (w h : Nat) (src : List Byte) : State :=
  { base with
    dst := 0x100
    len := BitVec.ofNat 32 src.length
    width := BitVec.ofNat 16 w
    height := BitVec.ofNat 16 h
    mem := Memory.writeRange [] 0 src }

/-- A block with a command word in flight. -/
def inFlight (w : Word) (s : State) : State := State.issue w s

/-- Whether an outcome is a next state with a given error code, output length and destination bytes. -/
def ends (o : Host.Outcome State Fault Refusal) (code : BitVec 8) (a : Nat) (out : List Byte) : Bool :=
  match o with
  | .next t =>
    t.errcode == code && t.outLen.toNat == out.length && t.done && !t.busy && t.err == (code != 0) &&
      Memory.readRange t.mem a out.length == out
  | _ => false

/-- Whether an outcome is a next state with a given error code. -/
def endsWith (o : Host.Outcome State Fault Refusal) (code : BitVec 8) : Bool := ends o code 0 []

def packed12 : State := job 4 1 [0xAB, 0xCD, 0xEF, 0x12, 0x34, 0x56]
def highZero12 : State := job 2 1 [0x0A, 0xBC, 0x0D, 0xEF]
def words16 : State := job 4 1 [0x0A, 0xBC, 0x0D, 0xEF, 0x01, 0x23, 0x04, 0x56]
def bytes8 : State := job 4 1 [0x01, 0x80, 0xFF, 0x00]
def zeros8 : State := job 4 1 [0, 0, 0, 0]
def rgbBytes : State := job 4 1 [1, 2, 3, 4, 5, 6, 7, 8, 9, 10, 11, 12]
def regroup : State := { job 0 0 [0xAA, 1, 2, 3, 4, 5, 6] with offset := 1 }
def tile : State := { job 2 2 [0x0A, 0x0A, 0x0A, 0x0A] with gainR := 0x0800, gainB := 0 }
def mosaic8 : State := job 2 2 [1, 2, 3, 4]
def mosaic16 : State := job 2 2 [0, 1, 0, 2, 0, 3, 0, 4]

/-! Decoding: words written out from the fields of R81, one per family and more. -/

/-- GROUP = 2 in bits 23:20, OP = 1 (vector V1). -/
theorem test_decode_endian : decode 0x00200001 = .ok (.endian 2) := by decide

/-- GROUP = 15, the largest. -/
theorem test_decode_endian_largest_group : decode 0x00F00001 = .ok (.endian 15) := by decide

/-- BPP code 1 in bits 5:4, CH = 1 in bits 13:12 (vector V17). -/
theorem test_decode_unpack8 : decode 0x00001012 = .ok (.unpack8 .depth12 false 1) := by decide

/-- HZ in bit 6. -/
theorem test_decode_unpack8_high_zero : decode 0x00001052 = .ok (.unpack8 .depth12 true 1) := by decide

/-- CH = 3. -/
theorem test_decode_unpack16 : decode 0x00003023 = .ok (.unpack16 .depth16 false 3) := by decide

theorem test_decode_stretch16 : decode 0x00001014 = .ok (.stretch16 .depth12 false 1) := by decide

/-- MODE = 5 in bits 10:8 (vector V57). -/
theorem test_decode_window8 : decode 0x00001555 = .ok (.window8 .depth12 true 5 1) := by decide

theorem test_decode_norm8 : decode 0x00001026 = .ok (.norm8 .depth16 1) := by decide

/-- LAYOUT code 1 in bits 15:14 (vector V77). -/
theorem test_decode_gain : decode 0x00005007 = .ok (.gain .depth8 1 .grbg) := by decide

/-- LAYOUT code 3 and TARGET in bit 16. -/
theorem test_decode_demosaic : decode 0x0001D028 = .ok (.demosaic .depth16 1 .rggb .rgb) := by decide

/-- The encoder's worked example (`30_encoding.md` R97). -/
theorem test_encode_example : encode (.window8 .depth12 true 0 1) = 0x00001055 := by decide

theorem test_encode_demosaic : encode (.demosaic .depth16 1 .rggb .rgb) = 0x0001D028 := by decide

/-- OP 0, 9 and F are no opcode, whatever else the word holds (`30_encoding.md` R82, R95). -/
theorem test_decode_no_opcode :
    decode 0x00000000 = .error .cfgOpcode ∧ decode 0xFFFFFFF9 = .error .cfgOpcode ∧
    decode 0x0000000F = .error .cfgOpcode := by decide

/-- A reserved bit, or a field the opcode does not use, is rejected (vector V9 and `30_encoding.md` R92, R93). -/
theorem test_decode_reserved :
    decode 0x00201001 = .error .cfgReserved ∧ decode 0x00001082 = .error .cfgReserved ∧
    decode 0x00001112 = .error .cfgReserved ∧ decode 0x00001046 = .error .cfgReserved ∧
    decode 0x00011007 = .error .cfgReserved ∧ decode 0x00021008 = .error .cfgReserved := by decide

/-- The bare match word of a row decodes to the row's command with every field 0. -/
theorem test_table_words :
    decodeTableWord 32 0x00000001 = some (.endian 0) ∧
    decodeTableWord 32 0x00000002 = some (.unpack8 .depth8 false 0) ∧
    decodeTableWord 32 0x00000003 = some (.unpack16 .depth8 false 0) ∧
    decodeTableWord 32 0x00000004 = some (.stretch16 .depth8 false 0) ∧
    decodeTableWord 32 0x00000005 = some (.window8 .depth8 false 0 0) ∧
    decodeTableWord 32 0x00000006 = some (.norm8 .depth8 0) ∧
    decodeTableWord 32 0x00000007 = some (.gain .depth8 0 .gbrg) ∧
    decodeTableWord 32 0x00000008 = some (.demosaic .depth8 0 .gbrg .gray) := by decide

/-! WellFormed smoke: one ill-formed command for each check, which the check refuses and the command reports. -/

theorem test_ill_formed_group : (Instr.endian 0).wellFormed = false ∧ endsWith (exec (.endian 0) regroup) 0x07 = true := by
  decide

theorem test_ill_formed_bpp :
    (Instr.unpack8 .noDepth false 1).wellFormed = false ∧
    endsWith (exec (.unpack8 .noDepth false 1) bytes8) 0x03 = true := by decide

theorem test_ill_formed_high_zero_16 :
    (Instr.unpack16 .depth16 true 1).wellFormed = false ∧
    endsWith (exec (.unpack16 .depth16 true 1) words16) 0x04 = true := by decide

theorem test_ill_formed_mode :
    (Instr.window8 .depth12 true 6 1).wellFormed = false ∧
    endsWith (exec (.window8 .depth12 true 6 1) highZero12) 0x05 = true := by decide

theorem test_ill_formed_channels :
    (Instr.stretch16 .depth8 false 2).wellFormed = false ∧
    endsWith (exec (.stretch16 .depth8 false 2) bytes8) 0x06 = true := by decide

theorem test_ill_formed_norm8_depth :
    (Instr.norm8 .depth12 1).wellFormed = false ∧ endsWith (exec (.norm8 .depth12 1) bytes8) 0x03 = true := by decide

theorem test_ill_formed_gain :
    (Instr.gain .depth16 1 .gbrg).wellFormed = false ∧ endsWith (exec (.gain .depth16 1 .gbrg) tile) 0x03 = true ∧
    (Instr.gain .depth8 3 .gbrg).wellFormed = false ∧ endsWith (exec (.gain .depth8 3 .gbrg) tile) 0x06 = true := by decide

theorem test_ill_formed_demosaic :
    (Instr.demosaic .depth12 1 .gbrg .gray).wellFormed = false ∧
    (Instr.demosaic .depth8 3 .gbrg .gray).wellFormed = false ∧
    endsWith (exec (.demosaic .depth8 3 .gbrg .gray) mosaic8) 0x06 = true := by decide

/-! One step of each command, with the bytes of `95_test_vectors.md`. -/

/-- Vector V2: groups of 3 from OFFSET 1; the byte at SRC stays. -/
theorem test_endian_v2 : ends (exec (.endian 3) regroup) 0x00 1 [3, 2, 1, 6, 5, 4] = true := by decide

/-- Vector V7: a remainder of the group length. -/
theorem test_endian_v7 : endsWith (exec (.endian 2) (job 0 0 [1, 2, 3, 4, 5])) 0x10 = true := by decide

/-- Vector V17. -/
theorem test_unpack8_v17 : ends (exec (.unpack8 .depth12 false 1) packed12) 0x00 0x100 [0xAB, 0xDE, 0x12, 0x45] = true := by
  decide

/-- Vector V33. -/
theorem test_unpack16_v33 :
    ends (exec (.unpack16 .depth12 false 1) packed12) 0x00 0x100 [0x0A, 0xBC, 0x0D, 0xEF, 0x01, 0x23, 0x04, 0x56] = true := by
  decide

/-- Vector V39. -/
theorem test_stretch16_v39 :
    ends (exec (.stretch16 .depth12 false 1) packed12) 0x00 0x100 [0xAB, 0xC0, 0xDE, 0xF0, 0x12, 0x30, 0x45, 0x60] = true := by
  decide

/-- Vector V42. -/
theorem test_window8_v42 :
    ends (exec (.window8 .depth12 true 1 1) (job 2 1 [0x0A, 0xBC, 0x05, 0xA5])) 0x00 0x100 [0x57, 0xB4] = true := by decide

/-- Vector V57: MODE 5, with MAXVAL. -/
theorem test_window8_v57 :
    ends (exec (.window8 .depth12 true 5 1) highZero12) 0x00 0x100 [0xC4, 0xFF] = true ∧
    (window8Body .depth12 true 5 1 highZero12).maxval = 0x0DEF := by decide

/-- Vector V64, with MAXVAL. -/
theorem test_norm8_v64 :
    ends (exec (.norm8 .depth16 1) words16) 0x00 0x100 [0xC4, 0xFF, 0x15, 0x4F] = true ∧
    (norm8Body .depth16 1 words16).maxval = 0x0DEF := by decide

/-- Vector V64 under NORM_ROUND = TRUNC. -/
theorem test_norm8_v64_trunc :
    ends (exec (.norm8 .depth16 1) { words16 with params := { words16.params with normRound := .trunc } }) 0x00 0x100
      [0xC4, 0xFF, 0x14, 0x4F] = true := by decide

/-- Vector V76: R doubled, G kept, B zero under GBRG. -/
theorem test_gain_v76 : ends (exec (.gain .depth8 1 .gbrg) tile) 0x00 0x100 [0x0A, 0x00, 0x14, 0x0A] = true := by decide

/-- Vector V77: the same under GRBG. -/
theorem test_gain_v77 : ends (exec (.gain .depth8 1 .grbg) tile) 0x00 0x100 [0x0A, 0x14, 0x00, 0x0A] = true := by decide

/-- DEMOSAIC to RGB writes 3 bytes a pixel and keeps its source; nothing is expected of their values. -/
theorem test_demosaic_shape :
    (match exec (.demosaic .depth8 1 .rggb .rgb) mosaic8 with
      | .next t => t.errcode == 0 && t.outLen == 12 && Memory.readRange t.mem 0 4 == [1, 2, 3, 4] &&
          (t.mem.map Prod.fst).all fun a => decide (a < 4) || (decide (0x100 ≤ a) && decide (a < 0x10C))
      | _ => false) = true := by decide

/-- Vector V100: a length that is not the mosaic's. -/
theorem test_demosaic_length : endsWith (exec (.demosaic .depth8 1 .gbrg .rgb) (job 4 2 [1, 1, 1, 1, 1, 1, 1, 1, 1])) 0x10 =
    true := by decide

/-! The step, the host's side and the byte order. -/

/-- Issue, completion and a poll of STATUS: DONE alone reads 0x2. -/
theorem test_run_program :
    (match Host.Core.run Sys2Proof.core 3 { packed12 with events := hostRun (.unpack8 .depth12 false 1) 0 } with
      | .next t => t.events == [] && t.reads == [.reg .status 0x2] &&
          Memory.readRange t.mem 0x100 4 == [0xAB, 0xDE, 0x12, 0x45]
      | _ => false) = true := by decide

/-- From State.reset the issued word runs: ENDIAN of no byte succeeds, UNPACK8 finds no image (CFG_DIM). -/
theorem test_fetch_word_from_reset :
    endsWith (step (State.reset.withFetchWord 32 0x00200001)) 0x00 = true ∧
    endsWith (step (State.reset.withFetchWord 32 0x00001002)) 0x08 = true := by decide

/-- A race and a bad access are recorded, and the run goes on. -/
theorem test_faults_recorded :
    (hostStep (.memWrite 0 1) (inFlight 1 base)).faults = { hostBadAccess := false, hostRace := true } ∧
    (hostStep (.regRead 0x02 4) base).faults = { hostBadAccess := true, hostRace := false } := by decide

/-- A 16-bit value is stored high byte first under BE, low byte first under LE (`20_memory.md` R64). -/
theorem test_word_order : wordBytes .be 0x1234 = [0x12, 0x34] ∧ wordBytes .le 0x1234 = [0x34, 0x12] := by decide

/-- The site table, a row of 2x2 sites for each layout (`30_encoding.md` R90). -/
theorem test_site_table :
    [siteOf .gbrg 0 0, siteOf .gbrg 0 1, siteOf .gbrg 1 0, siteOf .gbrg 1 1] = [.g1, .b, .r, .g2] ∧
    [siteOf .grbg 0 0, siteOf .grbg 0 1, siteOf .grbg 1 0, siteOf .grbg 1 1] = [.g1, .r, .b, .g2] ∧
    [siteOf .bggr 0 0, siteOf .bggr 0 1, siteOf .bggr 1 0, siteOf .bggr 1 1] = [.b, .g1, .g2, .r] ∧
    [siteOf .rggb 0 0, siteOf .rggb 0 1, siteOf .rggb 1 0, siteOf .rggb 1 1] = [.r, .g1, .g2, .b] := by decide

/-- The pseudo-commands are well-formed words of core commands (`30_encoding.md` R98). -/
theorem test_pseudo_commands :
    encode (pseudoCopy8 1) = 0x00001002 ∧ encode pseudoSwap16 = 0x00200001 ∧
    encode (pseudoHighByte16 1) = 0x00001022 ∧ encode (pseudoNorm12 true 1) = 0x00001555 := by decide

/-! Witnesses: states and operands that meet the hypotheses of each statement, at the edges of its clauses. -/

theorem witness_EncodeDecodeRoundTrip : decode 0x00001055 = .ok (.window8 .depth12 true 0 1) := by decide

theorem witness_IllegalWordsRefused :
    ((0x00000000 : Word).toNat % 16 = 0 ∨ 8 < (0x00000000 : Word).toNat % 16) ∧
    ((0x00000009 : Word).toNat % 16 = 0 ∨ 8 < (0x00000009 : Word).toNat % 16) ∧
    (1 ≤ (0x01200001 : Word).toNat % 16 ∧ (0x01200001 : Word).toNat % 16 ≤ 8) ∧ (0x01200001 : Word) &&& 0xFF0E0880 ≠ 0 ∧
    (1 ≤ (0x00001088 : Word).toNat % 16 ∧ (0x00001088 : Word).toNat % 16 ≤ 8) ∧ (0x00001088 : Word) &&& 0xFF0E0880 ≠ 0 := by
  decide

theorem witness_AssembledWordsWellFormed :
    assemble .window8 [(.bpp, .num 12), (.hz, .num 1), (.mode, .num 5)] = some 0x00001555 ∧
    assemble .demosaic [(.layout, .layout .rggb), (.target, .target .rgb)] = some 0x0001D008 := by decide

/-- The example of R97, a pseudo-command and a raw word. -/
theorem witness_AssembledLinesWellFormed :
    assembleLine "WINDOW8 bpp=12, hz=1, mode=0, ch=1".toList = some 0x00001055 ∧
    assembleLine "NORM12 hz=1".toList = some 0x00001555 ∧ assembleLine ".word 0xFFFFFFF9".toList = some 0xFFFFFFF9 := by decide

/-- What an assembler refuses (`30_encoding.md` R97): an unknown key, a key the opcode does not use, a key twice, a value
outside the list, a value the opcode does not accept, ENDIAN without a group. -/
theorem test_assembler_refuses :
    assembleLine "UNPACK8 depth=8".toList = none ∧ assembleLine "UNPACK8 mode=0".toList = none ∧
    assembleLine "UNPACK8 ch=1, ch=1".toList = none ∧ assembleLine "UNPACK8 bpp=10".toList = none ∧
    assembleLine "NORM8 bpp=12".toList = none ∧ assembleLine "UNPACK8 bpp=16, hz=1".toList = none ∧
    assembleLine "ENDIAN".toList = none := by decide

theorem witness_RunPollsUntilDone :
    { packed12 with events := hostRun (.unpack8 .depth12 false 1) 2 }.busy = false ∧
    { packed12 with events := hostRun (.unpack8 .depth12 false 1) 2 }.events = hostRun (.unpack8 .depth12 false 1) 2 := by
  decide

theorem witness_StepRunsIssuedCommand :
    ((inFlight 0x00300001 regroup).busy = true ∧ decode (inFlight 0x00300001 regroup).cmd = .ok (.endian 3) ∧
      (inFlight 0x00300001 regroup).events = []) ∧
    (regroup.withFetchWord 32 0x00300001).busy = true ∧
    decode (regroup.withFetchWord 32 0x00300001).cmd = .ok (.endian 3) ∧
    (regroup.withFetchWord 32 0x00300001).events = .engine :: [] := by decide

theorem witness_IdleBlockStays : base.over := by decide

theorem witness_StepKeepsInvariant :
    State.inv (inFlight 0x00300001 regroup) ∧ ∃ t, step (inFlight 0x00300001 regroup) = .next t := ⟨by decide, _, rfl⟩

theorem witness_FaultsNeverCleared :
    ∃ s t, step s = .next t ∧ s.faults.hostBadAccess = true ∧ s.faults.hostRace = true ∧ s.busy = true :=
  ⟨inFlight 0x00300001 { regroup with faults := { hostBadAccess := true, hostRace := true } }, _, rfl, rfl, rfl, rfl⟩

theorem witness_ErrorsWriteNothing : ∃ t, completeWord 0x00300001 bytes8 = .next t ∧ t.errcode ≠ 0 := ⟨_, rfl, by decide⟩

theorem witness_CommandsKeepParameterRegisters : ∃ t, exec (.endian 3) regroup = .next t := ⟨_, rfl⟩

theorem witness_SuccessStaysInBounds : ∃ t, exec (.endian 3) regroup = .next t ∧ t.errcode = 0 := ⟨_, rfl, by decide⟩

theorem witness_SuccessWritesOnlyDestination :
    (∃ t, exec (.unpack8 .depth8 false 1) bytes8 = .next t ∧ t.errcode = 0) ∧
    (∀ bpp ch, (Instr.unpack8 .depth8 false 1) ≠ .norm8 bpp ch) ∧
    (∀ bpp hz ch, (Instr.unpack8 .depth8 false 1) ≠ .window8 bpp hz 5 ch) ∧
    (∃ t, exec (.norm8 .depth8 1) bytes8 = .next t ∧ t.errcode = 0) :=
  ⟨⟨_, rfl, by decide⟩, by simp, by simp, ⟨_, rfl, by decide⟩⟩

theorem witness_OutLenIsExact :
    rgbBytes.params.wf ∧ (∃ t, exec (.unpack16 .depth8 false 3) rgbBytes = .next t ∧ t.errcode = 0) ∧
    ∃ t, exec (.unpack16 .depth16 false 3) rgbBytes = .next t ∧ t.errcode ≠ 0 :=
  ⟨by decide, ⟨_, rfl, by decide⟩, _, rfl, by decide⟩

/-- Two memories that differ in a byte outside the source range, and agree inside it. -/
theorem witness_ResultDependsOnSourceBytesOnly :
    (∀ a, bytes8.src.toNat ≤ a → a < bytes8.src.toNat + bytes8.len.toNat →
      Memory.read (Memory.write bytes8.mem 0x200 7) a = Memory.read bytes8.mem a) ∧
    (∃ t, exec (.unpack8 .depth8 false 1) bytes8 = .next t ∧ t.errcode = 0) ∧
    (∃ u, exec (.unpack8 .depth8 false 1) { bytes8 with mem := Memory.write bytes8.mem 0x200 7 } = .next u) ∧
    Memory.write bytes8.mem 0x200 7 ≠ bytes8.mem := by
  refine ⟨?_, ⟨_, rfl, by decide⟩, ⟨_, rfl⟩, by decide⟩
  intro a _ h
  have h : a < 4 := h
  exact (by decide : ∀ a < 4, Memory.read (Memory.write bytes8.mem 0x200 7) a = Memory.read bytes8.mem a) a h

theorem witness_EndianReversesGroups :
    endianReady 3 regroup ∧ 2 < (3 : BitVec 4).toNat ∧ 1 * (3 : BitVec 4).toNat + 2 < regroup.len.toNat - regroup.offset.toNat := by
  decide

/-- The edges: groups of one byte, and OFFSET = LEN. -/
theorem witness_EndianReversesGroups_edges : endianReady 1 bytes8 ∧ endianReady 15 { regroup with offset := 7 } := by decide

theorem witness_EndianTwiceRestores : endianReady 3 regroup := by decide

theorem witness_SamplesMatchBitPictures :
    0 % 2 = 0 ∧ 1 % 2 = 1 ∧ unpackDepthLegal .depth8 true = true ∧ unpackDepthLegal .depth12 true = true ∧
    unpackDepthLegal .depth16 false = true := by decide

theorem witness_PaddingNibbleIgnored :
    (Memory.read [(0, 0x0A), (1, 0xBC)] (0 + 2 * 0)).extractLsb' 0 4 =
      (Memory.read [(0, 0xFA), (1, 0xBC)] (0 + 2 * 0)).extractLsb' 0 4 ∧
    Memory.read [(0, 0x0A), (1, 0xBC)] (0 + 2 * 0 + 1) = Memory.read [(0, 0xFA), (1, 0xBC)] (0 + 2 * 0 + 1) ∧
    ([(0, 0x0A), (1, 0xBC)] : Memory) ≠ [(0, 0xFA), (1, 0xBC)] := by decide

/-- Every packing convention, and 3 channels. -/
theorem witness_Unpack8WritesHighBytes :
    packedReady .depth8 false 1 (sampleCount 1 bytes8) bytes8 ∧ packedReady .depth12 true 1 (sampleCount 1 highZero12) highZero12 ∧
    packedReady .depth12 false 1 (sampleCount 1 packed12) packed12 ∧
    packedReady .depth16 false 1 (sampleCount 1 words16) words16 ∧
    packedReady .depth8 true 3 (sampleCount 3 rgbBytes) rgbBytes ∧ 11 < sampleCount 3 rgbBytes := by decide

theorem witness_Unpack16WritesWords :
    packedReady .depth8 false 1 (2 * sampleCount 1 bytes8) bytes8 ∧
    packedReady .depth12 false 1 (2 * sampleCount 1 packed12) packed12 ∧
    packedReady .depth16 false 1 (2 * sampleCount 1 words16) words16 ∧ 3 < sampleCount 1 words16 := by decide

theorem witness_Stretch16WritesScaledWords :
    packedReady .depth8 false 3 (2 * sampleCount 3 rgbBytes) rgbBytes ∧
    packedReady .depth12 true 1 (2 * sampleCount 1 highZero12) highZero12 ∧ 1 < sampleCount 1 highZero12 := by decide

theorem witness_Window8WritesWindows :
    (0 : BitVec 3).toNat ≤ 4 ∧ (4 : BitVec 3).toNat ≤ 4 ∧
    packedReady .depth8 false 1 (sampleCount 1 bytes8) bytes8 ∧
    packedReady .depth12 false 1 (sampleCount 1 packed12) packed12 ∧
    packedReady .depth16 false 1 (sampleCount 1 words16) words16 ∧ 3 < sampleCount 1 words16 := by decide

theorem witness_Window8Mode5Normalizes :
    packedReady .depth12 true 1 (sampleCount 1 highZero12) highZero12 ∧ 1 < sampleCount 1 highZero12 := by decide

theorem witness_Unpack8CopiesBytes : packedReady .depth8 false 1 (sampleCount 1 bytes8) { bytes8 with dst := 2 } := by decide

/-- Both sides of the equivalence: no padding, and a padded container. -/
theorem witness_HighZeroRoundTrip :
    packedReady .depth12 true 1 (2 * sampleCount 1 highZero12) highZero12 ∧ highZero12.params.wordOrder = .be ∧
    (∀ i, i < sampleCount 1 highZero12 → (Memory.read highZero12.mem (highZero12.src.toNat + 2 * i)).extractLsb' 4 4 = 0) ∧
    packedReady .depth12 true 1 4 (job 2 1 [0xFA, 0xBC, 0x0D, 0xEF]) ∧
    ¬(Memory.read (job 2 1 [0xFA, 0xBC, 0x0D, 0xEF]).mem 0).extractLsb' 4 4 = 0 := by decide

theorem witness_StretchThenNormalizeIsNormalize :
    packedReady .depth12 true 1 (2 * sampleCount 1 highZero12) highZero12 ∧ 2 * sampleCount 1 highZero12 < 2 ^ 32 ∧
    (0x200 : Word).toNat + sampleCount 1 highZero12 ≤ highZero12.params.memSize ∧
    packedReady .depth16 false 1 (2 * sampleCount 1 words16) words16 ∧
    (0xFFC : Word).toNat + sampleCount 1 words16 ≤ words16.params.memSize := by decide

theorem witness_FullScaleNormalizeNearHighByte : ((12 = 12 ∨ 12 = 16) ∧ 4095 < 2 ^ 12) ∧ ((16 = 12 ∨ 16 = 16) ∧ 65535 < 2 ^ 16) := by
  decide

theorem witness_Window8Mode0IsUnpack8 : words16.params.winShift0 = 8 := by decide

theorem witness_Norm8Normalizes :
    norm8Ready .depth16 1 words16 ∧ norm8Ready .depth8 1 bytes8 ∧ norm8Ready .depth8 1 zeros8 ∧ 3 < sampleCount 1 words16 := by
  decide

theorem witness_Norm8OfZerosIsZero :
    norm8Ready .depth8 1 zeros8 ∧ (∀ k, k < zeros8.len.toNat → Memory.read zeros8.mem (zeros8.src.toNat + k) = 0) ∧
    3 < sampleCount 1 zeros8 := by decide

theorem witness_NormalizeRoundsIntoBytes :
    3567 ∈ [2748, 3567] ∧ 3567 = maxSample [2748, 3567] ∧ 3567 ≠ 0 ∧ 0 < 1 := by decide

theorem witness_GainScalesEverySite :
    gainReady .depth8 1 tile ∧ 0 < tile.width.toNat ∧ 1 < tile.width.toNat ∧ 0 < tile.height.toNat ∧ 1 < tile.height.toNat := by
  decide

/-- Both ends of the legal gains (`10_state.md` R32), and the values past them. -/
theorem witness_gain_range : gainLegal 0x2800 ∧ gainLegal 0xD800 ∧ ¬gainLegal 0x2801 ∧ ¬gainLegal 0xD7FF := by decide

theorem witness_GainOneIsIdentity :
    gainReady .depth8 1 mosaic8 ∧ mosaic8.gainR = 0x0400 ∧ mosaic8.gainG = 0x0400 ∧ mosaic8.gainB = 0x0400 ∧
    3 < pixelCount mosaic8 := by decide

theorem witness_GainProductsSaturate : 255 ≤ 255 ∧ (0 : Int) ≤ 0 ∧ 26 ≤ 26 := by decide

/-- A tie of HALF_EVEN. -/
theorem witness_GainRoundingIsNearest : 2 * |1024 * roundQ .halfEven 512 - 512| = 1024 := by decide

theorem witness_DemosaicWritesKernelOutput :
    demosaicReady .depth8 1 .gray mosaic8 ∧ demosaicReady .depth16 1 .rgb mosaic16 ∧
    ∀ xs, 11 < (demosaicKernel .rggb .rgb 16 2 2 xs).length := by
  refine ⟨by decide, by decide, fun xs => ?_⟩
  simp [demosaicKernel, targetChannels]

theorem witness_KernelOutputHasItsShape : ∃ v, v ∈ demosaicKernel .gbrg .gray 8 2 2 [1, 2, 3, 4] :=
  ⟨_, List.mem_map.mpr ⟨0, by decide, rfl⟩⟩

theorem witness_SoftResetRestoresRegisters :
    (0x2 : Word).getLsbD 1 = true ∧ tile.busy = false ∧ (inFlight 0x00001007 tile).busy = true := by decide

theorem witness_CmdWriteIssues : regroup.busy = false := by decide

theorem witness_BusyIgnoresRegisterWrites : (inFlight 0x00300001 regroup).busy = true := by decide

/-- A full word register, a 16-bit one, and a read-only one. -/
theorem witness_RegisterWritesStoreFields :
    tile.busy = false ∧ storedBits .src = some 0xFFFFFFFF ∧ storedBits .gainB = some 0x0000FFFF ∧ Reg.dst ≠ Reg.src ∧
    (Reg.reserved3C = .id ∨ Reg.reserved3C = .outLen ∨ Reg.reserved3C = .maxval ∨ Reg.reserved3C = .reserved38 ∨
      Reg.reserved3C = .reserved3C) := by decide

theorem witness_StatusBitsAndClear : bytes8.busy = false := by decide

theorem witness_CtrlHoldsIrqEnable : bytes8.busy = false ∧ (0x1 : Word).getLsbD 1 = false := by decide

theorem witness_IrqFollowsDone :
    { bytes8 with irqEn := true }.irqEn = true ∧ { bytes8 with irqEn := true, done := true }.busy = false ∧
    (0x2 : Word).getLsbD 1 = true ∧ (0x0 : Word).getLsbD 0 = false ∧
    irqLevel { bytes8 with irqEn := true, done := true } = true ∧
    irqLevel (hostStep (.regWrite 0x08 4 0x2) { bytes8 with irqEn := true, done := true }) = false := by decide

/-- Each way an access is bad, at its edge, and the last good access. -/
theorem witness_BadRegisterAccessRecorded :
    (2 ≠ 4 ∨ 0x00 % 4 ≠ 0 ∨ 0x40 ≤ 0x00) ∧ (4 ≠ 4 ∨ 0x3D % 4 ≠ 0 ∨ 0x40 ≤ 0x3D) ∧ (4 ≠ 4 ∨ 0x40 % 4 ≠ 0 ∨ 0x40 ≤ 0x40) ∧
    (4 = 4 ∧ 0x3C % 4 = 0 ∧ 0x3C < 0x40) := by decide

theorem witness_BadMemoryAccessRecorded :
    base.params.memSize ≤ 0x1000 ∧ 0xFFF < base.params.memSize ∧ (inFlight 0x00300001 base).params.memSize ≤ 0x1000 ∧
    0xFFF < (inFlight 0x00300001 base).params.memSize ∧ (inFlight 0x00300001 base).busy = true := by decide

theorem witness_HostByteAccess : 0xFFF < base.params.memSize ∧ base.busy = false := by decide

theorem witness_HostEventKeepsCommandInFlight :
    { inFlight 0x00300001 regroup with events := [.host (.memWrite 0 1)] }.events = .host (.memWrite 0 1) :: [] ∧
    { inFlight 0x00300001 regroup with events := [.host (.memWrite 0 1)] }.busy = true := by decide

end Sys2Proof.Tests
end

section
/-! The shape of DemosaicKernel's output (`00_scope.md` R9): how many samples it gives, and their bound. -/

namespace Sys2Proof.Proofs
open Sys2Proof Sys2Proof.Machine

/-- C of `00_scope.md` R9: the grey target has one channel per pixel, the colour target three. -/
theorem targetChannels_eq_ite (t : Target) : targetChannels t = if t = .gray then 1 else 3 := by
  cases t <;> rfl

/-- The model's kernel reduces each free draw modulo `2 ^ depth`, so the bound needs nothing of the draw itself. -/
theorem lt_two_pow_of_mem_demosaicKernel {l : Layout} {t : Target} {depth w h v : Nat} {xs : List Nat}
    (hv : v ∈ demosaicKernel l t depth w h xs) : v < 2 ^ depth := by
  obtain ⟨j, -, rfl⟩ := List.mem_map.mp hv
  exact Nat.mod_lt _ (Nat.two_pow_pos depth)

/-- Settles O46: the length is the model's length law with C spelt out, the bound that of each sample. -/
theorem kernelOutputHasItsShape : Obligations.KernelOutputHasItsShape := by
  intro l t depth w h xs
  constructor
  · rw [demosaicKernel_length, targetChannels_eq_ite]
  · exact fun _ hv => lt_two_pow_of_mem_demosaicKernel hv

end Sys2Proof.Proofs
end

section
/-! How a command ends (`60_exceptions.md` R206): every arm of `exec` runs one check table and one pseudocode, so one
inversion lemma says all that a completion can do to the state. -/

namespace Sys2Proof.Proofs
open Sys2Proof Sys2Proof.Machine

/-- The check table of a command (`60_exceptions.md` R202). -/
def checksOf (i : Instr) (s : State) : List Check :=
  match i with
  | .endian group => endianChecks group s
  | .unpack8 bpp hz ch => packedChecks bpp hz ch (sampleCount ch s) s
  | .unpack16 bpp hz ch => packedChecks bpp hz ch (2 * sampleCount ch s) s
  | .stretch16 bpp hz ch => packedChecks bpp hz ch (2 * sampleCount ch s) s
  | .window8 bpp hz mode ch => window8Checks bpp hz mode ch s
  | .norm8 bpp ch => norm8Checks bpp ch s
  | .gain bpp ch _ => gainChecks bpp ch s
  | .demosaic bpp ch _ target => demosaicChecks bpp ch target s

/-- The pseudocode of a command, which runs when no check of its table fails. -/
def bodyOf (i : Instr) (s : State) : State :=
  match i with
  | .endian group => endianBody group s
  | .unpack8 bpp hz ch => unpack8Body bpp hz ch s
  | .unpack16 bpp hz ch => unpack16Body bpp hz ch s
  | .stretch16 bpp hz ch => stretch16Body bpp hz ch s
  | .window8 bpp hz mode ch => window8Body bpp hz mode ch s
  | .norm8 bpp ch => norm8Body bpp ch s
  | .gain _ _ layout => gainBody layout s
  | .demosaic bpp _ layout target => demosaicBody bpp layout target s

/-- Every command is one completion step over its table and its pseudocode. -/
theorem exec_eq_runCommand (i : Instr) (s : State) : exec i s = runCommand (checksOf i s) (bodyOf i) s := by
  cases i <;> rfl

/-- No check of a table reports OK. -/
theorem ne_ok_of_mem_checksOf {i : Instr} {s : State} {c : Check} (h : c ∈ checksOf i s) : c.2 ≠ .ok := by
  revert c
  cases i <;> simp [checksOf, endianChecks, packedChecks, window8Checks, norm8Checks, gainChecks, demosaicChecks,
    checkBpp, checkHz16, checkMode, checkChannels, checkOneChannel, checkGroup, checkDim, checkEvenDim, checkGains,
    checkGroups, checkPacked, checkLength, checkSource, checkDestination]

/-- `t` is `s` after a success of `n` output bytes: only buffer memory, MAXVAL, OUT_LEN and STATUS are written
(`10_state.md` R20). -/
def EndsOk (n : Nat) (s t : State) : Prop := ∃ m mx, t = State.complete .ok n { s with mem := m, maxval := mx }

theorem endsOk_finish_store (n a : Nat) (bs : List Byte) (s : State) : EndsOk n s (State.finish n (State.store a bs s)) :=
  ⟨_, s.maxval, rfl⟩

theorem endsOk_storeBytes {n : Nat} {f : Nat → Nat} {xs : List Nat} (h : xs.length = n) (s : State) :
    EndsOk n s (storeBytes f xs s) := h ▸ endsOk_finish_store _ _ _ _

theorem endsOk_storeWords {n : Nat} {f : Nat → Nat} {xs : List Nat} (h : xs.length = n) (s : State) :
    EndsOk (2 * n) s (storeWords f xs s) := h ▸ endsOk_finish_store _ _ _ _

theorem endsOk_storeNormalized {n : Nat} {xs : List Nat} (h : xs.length = n) (s : State) :
    EndsOk n s (storeNormalized xs s) := h ▸ ⟨_, _, rfl⟩

/-- Every pseudocode ends in success, with the output length of the command. -/
theorem endsOk_bodyOf (i : Instr) (s : State) : EndsOk (outBytes i s) s (bodyOf i s) := by
  cases i with
  | endian group => exact endsOk_finish_store _ _ _ _
  | unpack8 bpp hz ch => exact endsOk_storeBytes (samples_length bpp hz ch s) s
  | unpack16 bpp hz ch => exact endsOk_storeWords (samples_length bpp hz ch s) s
  | stretch16 bpp hz ch => exact endsOk_storeWords (samples_length bpp hz ch s) s
  | window8 bpp hz mode ch =>
    simp only [bodyOf, window8Body]
    split
    · exact endsOk_storeBytes (samples_length bpp hz ch s) s
    · exact endsOk_storeNormalized (samples_length bpp hz ch s) s
  | norm8 bpp ch => exact endsOk_storeNormalized (elements_length bpp (sampleCount ch s) s) s
  | gain bpp ch layout => exact endsOk_finish_store _ _ _ _
  | demosaic bpp ch layout target => exact endsOk_finish_store _ _ _ _

/-- All a command can do (`60_exceptions.md` R203, R206, R207): end with an error code and nothing written, or fail no
check and succeed. -/
theorem exec_cases {i : Instr} {s t : State} (h : exec i s = .next t) :
    (∃ code, code ≠ .ok ∧ firstFailing (checksOf i s) = some code ∧ t = State.complete code 0 s) ∨
    (firstFailing (checksOf i s) = none ∧ EndsOk (outBytes i s) s t) := by
  rw [exec_eq_runCommand] at h
  obtain ⟨code, hcode, ht⟩ | ⟨hnone, ht⟩ := runCommand_cases h
  · exact .inl ⟨code, ne_ok_of_mem_checksOf (firstFailing_mem _ _ hcode), hcode, ht⟩
  · exact .inr ⟨hnone, ht ▸ endsOk_bodyOf i s⟩

/-- Every command answers a next state (`60_exceptions.md` R204). -/
theorem exec_answers (i : Instr) (s : State) : ∃ t, exec i s = .next t :=
  exec_eq_runCommand i s ▸ runCommand_answers _ _ _

/-- Every command ends in a completion of a state that differs in memory and MAXVAL at most. -/
theorem exec_eq_complete {i : Instr} {s t : State} (h : exec i s = .next t) :
    ∃ code n m mx, t = State.complete code n { s with mem := m, maxval := mx } := by
  obtain ⟨code, -, -, rfl⟩ | ⟨-, m, mx, rfl⟩ := exec_cases h
  · exact ⟨code, 0, s.mem, s.maxval, rfl⟩
  · exact ⟨.ok, outBytes i s, m, mx, rfl⟩

/-- Settles O19: completion writes none of these fields. -/
theorem commandsKeepParameterRegisters : Obligations.CommandsKeepParameterRegisters := by
  intro i s t h
  obtain ⟨code, n, m, mx, rfl⟩ := exec_eq_complete h
  simp

/-- Every command word, spelled or not, answers, and ends in a completion. -/
theorem completeWord_eq_complete (w : Word) (s : State) :
    ∃ code n m mx, completeWord w s = .next (State.complete code n { s with mem := m, maxval := mx }) := by
  rw [completeWord]
  split
  · exact ⟨_, 0, s.mem, s.maxval, rfl⟩
  · rename_i i _
    obtain ⟨t, ht⟩ := exec_answers i s
    obtain ⟨code, n, m, mx, rfl⟩ := exec_eq_complete ht
    exact ⟨code, n, m, mx, ht⟩

end Sys2Proof.Proofs
end

section
/-! OUT_LEN fits its 32 bits (`10_state.md` R36): the checks bound the output by MEM_SIZE, which is at most 2^32, and no
output is exactly 2^32 bytes long (log entry 15). -/

namespace Sys2Proof.Proofs
open Sys2Proof Sys2Proof.Machine

/-- A 16-bit dimension that divides 2^32 is a power of two, so it is at most 2^15. -/
theorem le_of_half_dvd_two_pow {w : Half} (h : w.toNat ∣ 2 ^ 32) : w.toNat ≤ 2 ^ 15 := by
  obtain ⟨k, -, hk⟩ := (Nat.dvd_prime_pow Nat.prime_two).mp h
  have hlt : 2 ^ k < 2 ^ 16 := hk ▸ w.isLt
  have hk15 : k < 16 := (Nat.pow_lt_pow_iff_right (by decide)).mp hlt
  exact hk ▸ Nat.pow_le_pow_right (by decide) (by omega)

/-- Two 16-bit dimensions with 1, 2, 3 or 6 output bytes a pixel never make 2^32 bytes. -/
theorem dims_mul_ne_two_pow (w h : Half) {k : Nat} (hk : k ∈ [1, 2, 3, 6]) : w.toNat * h.toNat * k ≠ 2 ^ 32 := by
  intro heq
  have hw : w.toNat ≤ 2 ^ 15 := le_of_half_dvd_two_pow ⟨h.toNat * k, by rw [← heq, mul_assoc]⟩
  have hh : h.toNat ≤ 2 ^ 15 := le_of_half_dvd_two_pow ⟨w.toNat * k, by rw [← heq]; ring⟩
  have hwh : w.toNat * h.toNat ≤ 2 ^ 15 * 2 ^ 15 := Nat.mul_le_mul hw hh
  generalize w.toNat * h.toNat = n at heq hwh
  simp only [List.mem_cons, List.not_mem_nil, or_false] at hk
  obtain rfl | rfl | rfl | rfl := hk <;> omega

/-- DEMOSAIC's output has 1, 2, 3 or 6 bytes a pixel (`43_demosaic.md` R171). -/
theorem demosaicLength_eq_dims_mul {bpp : Bpp} (hb : elementDepthLegal bpp = true) (target : Target) (s : State) :
    ∃ k ∈ [1, 2, 3, 6], demosaicLength bpp target s = s.width.toNat * s.height.toNat * k := by
  have hbpp : bpp = .depth8 ∨ bpp = .depth16 := by simpa using (elementDepthLegal_iff bpp).mp hb
  obtain rfl | rfl := hbpp
  · exact ⟨targetChannels target, by cases target <;> decide, by simp [demosaicLength, pixelCount, bppBits]⟩
  · refine ⟨targetChannels target * 2, by cases target <;> decide, ?_⟩
    rw [demosaicLength, pixelCount, ← mul_assoc, bppBits]
    omega

/-- With 1 or 3 channels a byte a sample makes 1 or 3 bytes a pixel, and a word a sample 2 or 6. -/
theorem byte_per_channel {ch : BitVec 2} (h : channelsLegal ch = true) : ch.toNat ∈ [1, 2, 3, 6] := by
  revert ch; decide

theorem word_per_channel {ch : BitVec 2} (h : channelsLegal ch = true) : ch.toNat * 2 ∈ [1, 2, 3, 6] := by
  revert ch; decide

/-- The output of every command but ENDIAN has 1, 2, 3 or 6 bytes a pixel. -/
theorem outBytes_eq_dims_mul {i : Instr} {s : State} (h : firstFailing (checksOf i s) = none)
    (hi : ∀ group, i ≠ .endian group) : ∃ k ∈ [1, 2, 3, 6], outBytes i s = s.width.toNat * s.height.toNat * k := by
  cases i with
  | endian group => exact absurd rfl (hi group)
  | unpack8 bpp hz ch =>
    obtain ⟨-, hch, -⟩ := (packedChecks_none_iff ..).mp h
    exact ⟨_, byte_per_channel hch, rfl⟩
  | unpack16 bpp hz ch =>
    obtain ⟨-, hch, -⟩ := (packedChecks_none_iff ..).mp h
    exact ⟨_, word_per_channel hch, by simp only [outBytes, sampleCount]; ring⟩
  | stretch16 bpp hz ch =>
    obtain ⟨-, hch, -⟩ := (packedChecks_none_iff ..).mp h
    exact ⟨_, word_per_channel hch, by simp only [outBytes, sampleCount]; ring⟩
  | window8 bpp hz mode ch =>
    obtain ⟨-, -, hch, -⟩ := (window8Checks_none_iff ..).mp h
    exact ⟨_, byte_per_channel hch, rfl⟩
  | norm8 bpp ch =>
    obtain ⟨-, hch, -⟩ := (norm8Checks_none_iff ..).mp h
    exact ⟨_, byte_per_channel hch, rfl⟩
  | gain bpp ch layout => exact ⟨1, by decide, (Nat.mul_one _).symm⟩
  | demosaic bpp ch layout target =>
    obtain ⟨hbpp, -⟩ := (demosaicChecks_none_iff ..).mp h
    exact demosaicLength_eq_dims_mul hbpp target s

/-- Every command but ENDIAN checks that its output ends inside memory (`60_exceptions.md` R202 step 12). -/
theorem outBytes_le_memSize {i : Instr} {s : State} (h : firstFailing (checksOf i s) = none)
    (hi : ∀ group, i ≠ .endian group) : outBytes i s ≤ s.params.memSize := by
  have hmem : checkDestination (outBytes i s) s ∈ checksOf i s := by
    cases i with
    | endian group => exact absurd rfl (hi group)
    | _ => simp [checksOf, outBytes, packedChecks, window8Checks, norm8Checks, gainChecks, demosaicChecks]
  have hfit := (checkDestination_passes _ _).mp ((firstFailing_eq_none_iff _).mp h _ hmem)
  omega

/-- A command that fails no check writes fewer than 2^32 bytes. -/
theorem outBytes_lt_two_pow {i : Instr} {s : State} (hp : s.params.wf) (h : firstFailing (checksOf i s) = none) :
    outBytes i s < 2 ^ 32 := by
  by_cases hi : ∃ group, i = .endian group
  · obtain ⟨group, rfl⟩ := hi
    exact (Nat.sub_le _ _).trans_lt s.len.isLt
  · have hi : ∀ group, i ≠ .endian group := fun group hg => hi ⟨group, hg⟩
    obtain ⟨k, hk, hout⟩ := outBytes_eq_dims_mul h hi
    obtain ⟨-, hmax, -⟩ := hp
    exact lt_of_le_of_ne ((outBytes_le_memSize h hi).trans hmax) (hout ▸ dims_mul_ne_two_pow _ _ hk)

/-- Settles O22: an error completes with length 0, a success with its output length, which OUT_LEN holds exactly. -/
theorem outLenIsExact : Obligations.OutLenIsExact := by
  intro i s t hp h
  obtain ⟨code, hne, -, rfl⟩ | ⟨hnone, m, mx, rfl⟩ := exec_cases h
  · simp [hne]
  · simpa using outBytes_lt_two_pow hp hnone

end Sys2Proof.Proofs
end
section
/-! The register window (`10_state.md` R23, R40): which accesses reach a register, and all that a host operation can do. -/

namespace Sys2Proof.Proofs
open Sys2Proof Sys2Proof.Machine

/-- The offsets of `10_state.md` R23 are where the window has its registers. -/
theorem regAt_eq_some_iff (offset : Nat) (r : Reg) : regAt offset = some r ↔ offset = regOffset r := by
  constructor
  · intro h
    unfold regAt at h
    split at h <;> cases h <;> rfl
  · rintro rfl
    cases r <;> rfl

/-- The window has a register at every word-aligned offset below 0x40. -/
theorem regAt_isSome_of_aligned {offset : Nat} (hlt : offset < 0x40) (halign : offset % 4 = 0) :
    (regAt offset).isSome = true := by
  revert offset
  decide

/-- The registers lie at word-aligned offsets inside the window. -/
theorem regOffset_aligned (r : Reg) : regOffset r % 4 = 0 ∧ regOffset r < 0x40 := by
  cases r <;> decide

/-- What a register access reaches: 4 bytes at a register's offset. -/
theorem accessedReg_eq_some_iff (offset bytes : Nat) (r : Reg) :
    accessedReg offset bytes = some r ↔ bytes = 4 ∧ offset = regOffset r := by
  rw [accessedReg]
  split <;> simp_all [regAt_eq_some_iff]

@[simp] theorem accessedReg_regOffset (r : Reg) : accessedReg (regOffset r) 4 = some r :=
  (accessedReg_eq_some_iff _ _ _).mpr ⟨rfl, rfl⟩

/-- An access of 4 bytes at a word-aligned offset of the window reaches a register. -/
theorem accessedReg_of_aligned {offset : Nat} (halign : offset % 4 = 0) (hlt : offset < 0x40) :
    ∃ r, accessedReg offset 4 = some r := by
  obtain ⟨r, hr⟩ := Option.isSome_iff_exists.mp (regAt_isSome_of_aligned hlt halign)
  exact ⟨r, (if_pos rfl).trans hr⟩

/-- Every other access reaches none. -/
theorem accessedReg_eq_none {offset bytes : Nat} (h : bytes ≠ 4 ∨ offset % 4 ≠ 0 ∨ 0x40 ≤ offset) :
    accessedReg offset bytes = none := by
  rw [Option.eq_none_iff_forall_ne_some]
  intro r hr
  obtain ⟨rfl, rfl⟩ := (accessedReg_eq_some_iff _ _ _).mp hr
  have := regOffset_aligned r
  omega

theorem hostStep_regRead {offset bytes : Nat} {r : Reg} (h : accessedReg offset bytes = some r) (s : State) :
    hostStep (.regRead offset bytes) s = State.returnRead (.reg r (readReg r s)) s := by
  simp [hostStep, h]

theorem hostStep_regWrite {offset bytes : Nat} {r : Reg} (h : accessedReg offset bytes = some r) (v : Word) (s : State) :
    hostStep (.regWrite offset bytes v) s = writeReg r v s := by
  simp [hostStep, h]

theorem hostStep_regRead_none {offset bytes : Nat} (h : accessedReg offset bytes = none) (s : State) :
    hostStep (.regRead offset bytes) s = State.record .hostBadAccess s := by
  simp [hostStep, h]

theorem hostStep_regWrite_none {offset bytes : Nat} (h : accessedReg offset bytes = none) (v : Word) (s : State) :
    hostStep (.regWrite offset bytes v) s = State.record .hostBadAccess s := by
  simp [hostStep, h]

theorem writeReg_of_busy {s : State} (hb : s.busy = true) (r : Reg) (v : Word) : writeReg r v s = s := by
  simp [writeReg, hb]

theorem writeReg_of_idle {s : State} (hb : s.busy = false) (r : Reg) (v : Word) :
    writeReg r v s = writeRegIdle r v s := by
  simp [writeReg, hb]

/-- While BUSY = 0 a write at a register's offset has that register's effect. -/
theorem hostStep_regWrite_of_idle {s : State} (hb : s.busy = false) (r : Reg) (v : Word) :
    hostStep (.regWrite (regOffset r) 4 v) s = writeRegIdle r v s := by
  rw [hostStep_regWrite (accessedReg_regOffset r), writeReg_of_idle hb]

/-- All a host operation can do: hand a read's value to the host, write one register, record a fault, or store one byte. -/
theorem hostStep_cases (op : HostOp) (s : State) :
    (∃ d, hostStep op s = State.returnRead d s) ∨
    (∃ r v, op = .regWrite (regOffset r) 4 v ∧ hostStep op s = writeReg r v s) ∨
    (∃ f, hostStep op s = State.record f s) ∨
    (∃ a b, hostStep op s = State.store a [b] s) := by
  cases op with
  | regRead offset bytes =>
    cases h : accessedReg offset bytes with
    | none => exact .inr (.inr (.inl ⟨_, hostStep_regRead_none h s⟩))
    | some r => exact .inl ⟨_, hostStep_regRead h s⟩
  | regWrite offset bytes v =>
    cases h : accessedReg offset bytes with
    | none => exact .inr (.inr (.inl ⟨_, hostStep_regWrite_none h v s⟩))
    | some r =>
      obtain ⟨rfl, rfl⟩ := (accessedReg_eq_some_iff _ _ _).mp h
      exact .inr (.inl ⟨r, v, rfl, hostStep_regWrite h v s⟩)
  | memRead a =>
    cases h : memAccessFault a s with
    | none => exact .inl ⟨.mem a (Memory.read s.mem a), by simp [hostStep, h]⟩
    | some f => exact .inr (.inr (.inl ⟨f, by simp [hostStep, h]⟩))
  | memWrite a b =>
    cases h : memAccessFault a s with
    | none => exact .inr (.inr (.inr ⟨a, b, by simp [hostStep, h]⟩))
    | some f => exact .inr (.inr (.inl ⟨f, by simp [hostStep, h]⟩))

/-! What a register write changes. -/

theorem writeCtrl_of_softReset {v : Word} (h : v.getLsbD 1 = true) (s : State) : writeCtrl v s = State.softReset s :=
  if_pos h

theorem writeCtrl_of_no_softReset {v : Word} (h : v.getLsbD 1 = false) (s : State) :
    writeCtrl v s = { s with irqEn := v.getLsbD 0 } :=
  if_neg (Bool.eq_false_iff.mp h)

/-- No register write reaches the parameters, buffer memory or the fault set. -/
theorem writeReg_keeps (r : Reg) (v : Word) (s : State) :
    (writeReg r v s).params = s.params ∧ (writeReg r v s).mem = s.mem ∧ (writeReg r v s).faults = s.faults := by
  obtain ⟨-, heq⟩ | ⟨-, heq⟩ := writeReg_cases r v s
  · simp [heq]
  · rw [heq]
    cases r with
    | ctrl =>
      simp only [writeRegIdle]
      cases h : v.getLsbD 1 with
      | true => simp [writeCtrl_of_softReset h]
      | false => simp [writeCtrl_of_no_softReset h]
    | _ => exact ⟨rfl, rfl, rfl⟩

/-- Settles O51. -/
theorem busyIgnoresRegisterWrites : Obligations.BusyIgnoresRegisterWrites := by
  intro s r v hb
  exact ⟨by rw [hostStep_regWrite (accessedReg_regOffset r), writeReg_of_busy hb],
    hostStep_regRead (accessedReg_regOffset r) s⟩

/-- Settles O56: an access that reaches no register is recorded, and one that reaches a register keeps the fault set. -/
theorem badRegisterAccessRecorded : Obligations.BadRegisterAccessRecorded := by
  intro s offset bytes v
  constructor
  · intro hbad
    have hnone := accessedReg_eq_none hbad
    exact ⟨hostStep_regRead_none hnone s, hostStep_regWrite_none hnone v s⟩
  · rintro rfl halign hlt
    obtain ⟨r, hr⟩ := accessedReg_of_aligned halign hlt
    obtain ⟨-, -, hfaults⟩ := writeReg_keeps r v s
    exact ⟨by rw [hostStep_regRead hr, State.returnRead_faults], by rw [hostStep_regWrite hr, hfaults]⟩

/-! The fault set only grows (`10_state.md` R43). -/

/-- The parameters stay, and every fault recorded in `s` is recorded in `t`. -/
def KeepsFaults (s t : State) : Prop :=
  t.params = s.params ∧ (s.faults.hostBadAccess = true → t.faults.hostBadAccess = true) ∧
    (s.faults.hostRace = true → t.faults.hostRace = true)

theorem keepsFaults_of_eq {s t : State} (hp : t.params = s.params) (hf : t.faults = s.faults) : KeepsFaults s t := by
  simp [KeepsFaults, hp, hf]

theorem keepsFaults_record (f : Fault) (s : State) : KeepsFaults s (State.record f s) := by
  cases f <;> simp [KeepsFaults, FaultSet.add]

theorem keepsFaults_hostStep (op : HostOp) (s : State) : KeepsFaults s (hostStep op s) := by
  obtain ⟨d, h⟩ | ⟨r, v, -, h⟩ | ⟨f, h⟩ | ⟨a, b, h⟩ := hostStep_cases op s <;> rw [h]
  · exact keepsFaults_of_eq rfl rfl
  · obtain ⟨hp, -, hf⟩ := writeReg_keeps r v s
    exact keepsFaults_of_eq hp hf
  · exact keepsFaults_record f s
  · exact keepsFaults_of_eq rfl rfl

theorem keepsFaults_engineStep {s t : State} (h : engineStep s = .next t) : KeepsFaults s t := by
  rw [engineStep] at h
  split at h
  · obtain ⟨code, n, m, mx, hw⟩ := completeWord_eq_complete s.cmd s
    cases hw.symm.trans h
    exact keepsFaults_of_eq rfl rfl
  · cases h
    exact keepsFaults_of_eq rfl rfl

/-- Settles O15: the engine's turn leaves the fault set, and a host operation only adds to it. -/
theorem faultsNeverCleared : Obligations.FaultsNeverCleared := by
  intro s t h
  obtain ⟨-, hs⟩ | ⟨rest, -, hs⟩ | ⟨op, rest, -, hs⟩ := step_cases s <;> rw [hs] at h
  · exact keepsFaults_engineStep h
  · exact keepsFaults_engineStep (s := { s with events := rest }) h
  · cases h
    exact keepsFaults_hostStep op { s with events := rest }

end Sys2Proof.Proofs
end

section
/-! What each register stores and what a read of it returns (`10_state.md` R23 to R41). -/

namespace Sys2Proof.Proofs
open Sys2Proof Sys2Proof.Machine

/-- Two fields side by side, as a number. -/
theorem toNat_append_eq_add {m n : Nat} (x : BitVec m) (y : BitVec n) : (x ++ y).toNat = x.toNat * 2 ^ n + y.toNat := by
  rw [BitVec.toNat_append, ← Nat.shiftLeft_add_eq_or_of_lt y.isLt, Nat.shiftLeft_eq]

/-- A 16-bit field is read back with an upper half of 0. -/
theorem zero_append_low_half (v : Word) : 0#16 ++ v.extractLsb' 0 16 = v &&& 0x0000FFFF := by
  apply BitVec.eq_of_toNat_eq
  rw [toNat_append_eq_add, BitVec.extractLsb'_toNat, BitVec.toNat_and]
  simp [Nat.and_two_pow_sub_one_eq_mod v.toNat 16]

/-- The all-ones mask cuts nothing. -/
theorem and_full_mask (v : Word) : v &&& 0xFFFFFFFF = v := BitVec.and_allOnes

/-- A register with stored bits reads them back. -/
theorem readReg_writeRegIdle_same {r : Reg} {mask : Word} (h : Claims.storedBits r = some mask) (v : Word) (s : State) :
    readReg r (writeRegIdle r v s) = v &&& mask := by
  cases r <;> cases h
  case gainR | gainG | gainB => exact zero_append_low_half v
  case dim => exact BitVec.extractLsb'_append_extractLsb'.trans (and_full_mask v).symm
  case src | dst | len | offset => exact (and_full_mask v).symm

/-- A write of a register with stored bits changes what no other register reads: each read sees its own field alone. -/
theorem readReg_writeRegIdle_of_ne {r q : Reg} {mask : Word} (h : Claims.storedBits r = some mask) (hq : q ≠ r)
    (v : Word) (s : State) : readReg q (writeRegIdle r v s) = readReg q s := by
  cases r <;> cases h <;> cases q <;> first | exact absurd rfl hq | rfl

/-- A write of a register with stored bits issues nothing and ends nothing. -/
theorem writeRegIdle_busy_of_stored {r : Reg} {mask : Word} (h : Claims.storedBits r = some mask) (v : Word) (s : State) :
    (writeRegIdle r v s).busy = s.busy := by
  cases r <;> cases h <;> rfl

/-- Settles O52. -/
theorem registerWritesStoreFields : Obligations.RegisterWritesStoreFields := by
  intro s r v hb
  obtain ⟨-, hmem, -⟩ := writeReg_keeps r v s
  rw [writeReg_of_idle hb] at hmem
  simp only [hostStep_regWrite_of_idle hb]
  constructor
  · intro mask h
    exact ⟨readReg_writeRegIdle_same h v s, fun q hq => readReg_writeRegIdle_of_ne h hq v s, hmem,
      (writeRegIdle_busy_of_stored h v s).trans hb⟩
  · rintro (rfl | rfl | rfl | rfl | rfl) <;> rfl

/-- The fields of STATUS at their bits (`10_state.md` R35). -/
theorem statusWord_toNat (s : State) :
    (statusWord s).toNat = s.busy.toNat + 2 * s.done.toNat + 4 * s.err.toNat + 256 * s.errcode.toNat := by
  simp only [statusWord, toNat_append_eq_add, BitVec.toNat_ofBool, BitVec.toNat_zero]
  omega

/-- Settles O53. -/
theorem statusBitsAndClear : Obligations.StatusBitsAndClear := fun s v =>
  ⟨statusWord_toNat s, fun hb => hostStep_regWrite_of_idle hb .status v⟩

/-- Settles O54. -/
theorem ctrlHoldsIrqEnable : Obligations.CtrlHoldsIrqEnable := by
  intro s v hb hv
  constructor
  · exact (hostStep_regWrite_of_idle hb .ctrl v).trans (writeCtrl_of_no_softReset hv s)
  · simp only [readReg, toNat_append_eq_add]
    simp

end Sys2Proof.Proofs
end

section
/-! The interrupt level (`10_state.md` R37): what raises it and the four host operations that drop it. -/

namespace Sys2Proof.Proofs
open Sys2Proof Sys2Proof.Machine

/-- Completion of any command word asserts an enabled interrupt. -/
theorem completeWord_asserts_irq (w : Word) {s : State} (h : s.irqEn = true) :
    ∃ t, completeWord w s = .next t ∧ irqLevel t = true := by
  obtain ⟨code, n, m, mx, ht⟩ := completeWord_eq_complete w s
  exact ⟨_, ht, by simp [irqLevel, h]⟩

/-- Clearing DONE, clearing IRQ_EN, a soft reset or a new issue. -/
def DropsIrq (r : Reg) (v : Word) : Prop :=
  (r = .status ∧ v.getLsbD 1 = true) ∨ (r = .ctrl ∧ (v.getLsbD 0 = false ∨ v.getLsbD 1 = true)) ∨ r = .cmd

theorem irqLevel_writeCtrl (v : Word) (s : State) :
    irqLevel (writeCtrl v s) = (!v.getLsbD 1 && v.getLsbD 0 && s.done) := by
  cases h : v.getLsbD 1 with
  | true => rw [writeCtrl_of_softReset h]; rfl
  | false => rw [writeCtrl_of_no_softReset h]; rfl

theorem irqLevel_writeStatus (v : Word) (s : State) :
    irqLevel (writeStatus v s) = (irqLevel s && !v.getLsbD 1) := by
  simp [irqLevel, writeStatus, Bool.and_assoc]

/-- Those writes leave the interrupt low. -/
theorem irqLevel_of_dropsIrq {r : Reg} {v : Word} (h : DropsIrq r v) (s : State) :
    irqLevel (writeRegIdle r v s) = false := by
  obtain ⟨rfl, hv⟩ | ⟨rfl, hv⟩ | rfl := h
  · simp only [writeRegIdle, irqLevel_writeStatus, hv]
    simp
  · simp only [writeRegIdle, irqLevel_writeCtrl]
    obtain hv | hv := hv <;> simp only [hv] <;> simp
  · simp [writeRegIdle, irqLevel]

/-- Only those writes make a high interrupt low. -/
theorem dropsIrq_of_irqLevel {r : Reg} {v : Word} {s : State} (hhigh : irqLevel s = true)
    (hlow : irqLevel (writeRegIdle r v s) = false) : DropsIrq r v := by
  cases r with
  | status =>
    rw [writeRegIdle, irqLevel_writeStatus, hhigh] at hlow
    exact .inl ⟨rfl, by simpa only [Bool.true_and, Bool.not_eq_false'] using hlow⟩
  | ctrl =>
    obtain ⟨-, hdone⟩ : s.irqEn = true ∧ s.done = true := by simpa [irqLevel] using hhigh
    rw [writeRegIdle, irqLevel_writeCtrl, hdone] at hlow
    simp only [Bool.and_true, Bool.and_eq_false_iff, Bool.not_eq_false'] at hlow
    exact .inr (.inl ⟨rfl, hlow.symm⟩)
  | cmd => exact .inr (.inr rfl)
  | _ => exact absurd (hhigh.symm.trans hlow) (by decide)

/-- A host operation that makes a high interrupt low is one of those writes, at a register's offset. -/
theorem hostStep_drops_irq {op : HostOp} {s : State} (hhigh : irqLevel s = true)
    (hlow : irqLevel (hostStep op s) = false) : ∃ r v, op = .regWrite (regOffset r) 4 v ∧ DropsIrq r v := by
  have hsame : irqLevel s ≠ false := by simp [hhigh]
  obtain ⟨d, h⟩ | ⟨r, v, hop, h⟩ | ⟨f, h⟩ | ⟨a, b, h⟩ := hostStep_cases op s <;> rw [h] at hlow
  · exact absurd hlow hsame
  · obtain ⟨-, hw⟩ | ⟨-, hw⟩ := writeReg_cases r v s <;> rw [hw] at hlow
    · exact absurd hlow hsame
    · exact ⟨r, v, hop, dropsIrq_of_irqLevel hhigh hlow⟩
  · exact absurd hlow hsame
  · exact absurd hlow hsame

/-- Settles O55. -/
theorem irqFollowsDone : Obligations.IrqFollowsDone := by
  intro s
  refine ⟨rfl, fun w h => completeWord_asserts_irq w h, fun hb v => ?_, fun op hhigh hlow => ?_⟩
  · have hdrop : ∀ r, DropsIrq r v → irqLevel (hostStep (.regWrite (regOffset r) 4 v) s) = false := fun r h =>
      hostStep_regWrite_of_idle hb r v ▸ irqLevel_of_dropsIrq h s
    exact ⟨fun hv => hdrop .status (.inl ⟨rfl, hv⟩), fun hv => hdrop .ctrl (.inr (.inl ⟨rfl, hv⟩)),
      hdrop .cmd (.inr (.inr rfl))⟩
  · obtain ⟨r, v, rfl, ⟨rfl, hv⟩ | ⟨rfl, hv⟩ | rfl⟩ := hostStep_drops_irq hhigh hlow
    · exact ⟨v, .inl ⟨rfl, hv⟩⟩
    · exact ⟨v, .inr (.inl ⟨rfl, hv⟩)⟩
    · exact ⟨v, .inr (.inr rfl)⟩

end Sys2Proof.Proofs
end

section
/-! Issuing a command (`10_state.md` R26): the word stored in CMD is the one the engine completes. -/

namespace Sys2Proof.Proofs
open Sys2Proof Sys2Proof.Machine

/-- Right after an issue the engine's turn completes the issued word. -/
theorem engineStep_issue (v : Word) (s : State) : engineStep (State.issue v s) = completeWord v (State.issue v s) := rfl

/-- Settles O50. -/
theorem cmdWriteIssues : Obligations.CmdWriteIssues := by
  intro s v hb
  have h : hostStep (.regWrite 0x0C 4 v) s = State.issue v s := hostStep_regWrite_of_idle hb .cmd v
  rw [h]
  exact ⟨rfl, rfl, engineStep_issue v s⟩

/-- An encoded command carries its row's match word (`30_encoding.md` R93). -/
theorem encode_and_rowMask (i : Instr) : encode i &&& rowMask i.mnemonic = rowMatch i.mnemonic := by
  cases i with
  | endian group => exact Laws.RowMatch.endian group
  | unpack8 bpp hz ch => exact Laws.RowMatch.unpack8 bpp hz ch
  | unpack16 bpp hz ch => exact Laws.RowMatch.unpack16 bpp hz ch
  | stretch16 bpp hz ch => exact Laws.RowMatch.stretch16 bpp hz ch
  | window8 bpp hz mode ch => exact Laws.RowMatch.window8 bpp hz mode ch
  | norm8 bpp ch => exact Laws.RowMatch.norm8 bpp ch
  | gain bpp ch layout => exact Laws.RowMatch.gain bpp ch layout
  | demosaic bpp ch layout target => exact Laws.RowMatch.demosaic bpp ch layout target

/-- Every row's mask covers OP. -/
theorem fieldOp_and_rowMask (w : Word) (m : Mnemonic) : fieldOp (w &&& rowMask m) = fieldOp w := by
  have hmask : (rowMask m).extractLsb' 0 4 = BitVec.allOnes 4 := by cases m <;> decide
  rw [fieldOp, BitVec.extractLsb'_and, hmask, BitVec.and_allOnes, fieldOp]

/-- A word that matches a row decodes to what the row spells: its OP is the row's (`30_encoding.md` R94). -/
theorem decode_of_rowMatch {w : Word} {m : Mnemonic} (h : w &&& rowMask m = rowMatch m) : decode w = .ok (spell w m) := by
  have hop : mnemonicOfOp (fieldOp w) = some m := by
    rw [← fieldOp_and_rowMask w m, h]
    cases m <;> rfl
  simp [decode, hop, h]

/-- The fields of an encoded command are where its row reads them (`30_encoding.md` R81). -/
theorem spell_encode (i : Instr) : spell (encode i) i.mnemonic = i := by
  cases i with
  | endian group => revert group; decide
  | unpack8 bpp hz ch => cases bpp <;> revert hz ch <;> decide
  | unpack16 bpp hz ch => cases bpp <;> revert hz ch <;> decide
  | stretch16 bpp hz ch => cases bpp <;> revert hz ch <;> decide
  | window8 bpp hz mode ch => cases bpp <;> revert hz mode ch <;> decide
  | norm8 bpp ch => cases bpp <;> revert ch <;> decide
  | gain bpp ch layout => cases bpp <;> cases layout <;> revert ch <;> decide
  | demosaic bpp ch layout target => cases bpp <;> cases layout <;> cases target <;> revert ch <;> decide

/-- Decoding undoes encoding, the ill-formed commands included. -/
theorem decode_encode (i : Instr) : decode (encode i) = .ok i := by
  rw [decode_of_rowMatch (encode_and_rowMask i), spell_encode]

/-- A 32-bit word of the opcode table is the word itself. -/
theorem tableWord_toNat (w : Word) : tableWord 32 w.toNat = w := by
  rw [tableWord, Nat.mod_eq_of_lt w.isLt, BitVec.ofNat_toNat, BitVec.setWidth_eq]

/-- Settles O10: the step is the engine's turn on the issued state, whose word decodes to the command. -/
theorem issuedWordRunsNext : Obligations.IssuedWordRunsNext := by
  intro s i
  calc step (s.withFetchWord 32 (encode i).toNat)
      = engineStep (State.issue (tableWord 32 (encode i).toNat) s) := rfl
    _ = completeWord (encode i) (State.issue (encode i) s) := by rw [tableWord_toNat, engineStep_issue]
    _ = exec i (State.issue (encode i) s) := by rw [completeWord, decode_encode]

end Sys2Proof.Proofs
end

section
/-! What a successful command writes (`20_memory.md` R67, R68): one range of bytes, computed from the state before it, and
MAXVAL where it normalizes. -/

namespace Sys2Proof.Proofs
open Sys2Proof Sys2Proof.Machine

/-- The bytes that a successful command stores, in address order. -/
def outData (i : Instr) (s : State) : List Byte :=
  match i with
  | .endian group => reversedGroups s.mem (s.src.toNat + s.offset.toNat) group.toNat (s.len.toNat - s.offset.toNat)
  | .unpack8 bpp hz ch => byteList ((samples bpp hz ch s).map (highByte bpp))
  | .unpack16 bpp hz ch => wordListBytes s.params.wordOrder ((samples bpp hz ch s).map (widen s.params.ext8To16 bpp))
  | .stretch16 bpp hz ch => wordListBytes s.params.wordOrder ((samples bpp hz ch s).map (stretch bpp))
  | .window8 bpp hz mode ch =>
    if mode.toNat ≤ 4 then byteList ((samples bpp hz ch s).map (window s.params bpp mode.toNat))
    else byteList (normalize s.params.normRound (samples bpp hz ch s))
  | .norm8 bpp ch => byteList (normalize s.params.normRound (elements bpp (sampleCount ch s) s))
  | .gain _ _ layout => byteList ((List.range (pixelCount s)).map (gainSample layout s))
  | .demosaic bpp _ layout target =>
    elementBytes s.params.wordOrder bpp
      (demosaicKernel layout target (bppBits bpp) s.width.toNat s.height.toNat (elements bpp (pixelCount s) s))

/-- MAXVAL after a successful command (`10_state.md` R38). -/
def outMaxval (i : Instr) (s : State) : Half :=
  match i with
  | .window8 bpp hz mode ch =>
    if mode.toNat ≤ 4 then s.maxval else BitVec.ofNat 16 (maxSample (samples bpp hz ch s))
  | .norm8 bpp ch => BitVec.ofNat 16 (maxSample (elements bpp (sampleCount ch s) s))
  | _ => s.maxval

/-- The state after a successful command (`60_exceptions.md` R206, R207). -/
def successState (i : Instr) (s : State) : State :=
  State.complete .ok (outBytes i s) { State.store (outBase i s) (outData i s) s with maxval := outMaxval i s }

/-- Every pseudocode is one range write and a completion with OK. -/
theorem bodyOf_eq_successState (i : Instr) (s : State) : bodyOf i s = successState i s := by
  cases i with
  | unpack8 bpp hz ch =>
    rw [bodyOf, unpack8Body, storeBytes, samples_length]
    rfl
  | unpack16 bpp hz ch =>
    rw [bodyOf, unpack16Body, storeWords, samples_length]
    rfl
  | stretch16 bpp hz ch =>
    rw [bodyOf, stretch16Body, storeWords, samples_length]
    rfl
  | window8 bpp hz mode ch =>
    simp only [bodyOf, window8Body, successState, outData, outMaxval]
    split
    · rw [storeBytes, samples_length]
      rfl
    · rw [storeNormalized, samples_length]
      rfl
  | norm8 bpp ch =>
    rw [bodyOf, norm8Body, storeNormalized, elements_length]
    rfl
  | endian | gain | demosaic => rfl

/-- All a command can do, its result spelt out: an error code and nothing written, or the success that its checks allow. -/
theorem exec_cases_successState {i : Instr} {s t : State} (h : exec i s = .next t) :
    (∃ code, code ≠ .ok ∧ firstFailing (checksOf i s) = some code ∧ t = State.complete code 0 s) ∨
    (firstFailing (checksOf i s) = none ∧ t = successState i s) := by
  obtain herr | ⟨hnone, -⟩ := exec_cases h
  · exact .inl herr
  · rw [exec_eq_runCommand, runCommand_of_none hnone, bodyOf_eq_successState] at h
    cases h
    exact .inr ⟨hnone, rfl⟩

/-- A command that ended with ERRCODE 0 failed no check. -/
theorem successState_of_errcode_zero {i : Instr} {s t : State} (h : exec i s = .next t) (hok : t.errcode = 0) :
    firstFailing (checksOf i s) = none ∧ t = successState i s := by
  obtain ⟨code, hne, -, rfl⟩ | hsucc := exec_cases_successState h
  · exact absurd ((codeByte_eq_zero_iff code).mp hok) hne
  · exact hsucc

/-- DEMOSAIC's elements take as many bytes as its output length says (`43_demosaic.md` R171). -/
theorem elementBytes_demosaicKernel_length {bpp : Bpp} (hbpp : elementDepthLegal bpp = true) (layout : Layout)
    (target : Target) (xs : List Nat) (s : State) :
    (elementBytes s.params.wordOrder bpp
      (demosaicKernel layout target (bppBits bpp) s.width.toNat s.height.toNat xs)).length =
        demosaicLength bpp target s := by
  cases bpp with
  | depth8 => simp [elementBytes, demosaicLength, pixelCount, bppBits]
  | depth16 =>
    simp only [elementBytes, wordListBytes_length, demosaicKernel_length, demosaicLength, pixelCount, bppBits]
    omega
  | depth12 | noDepth => exact absurd hbpp (by decide)

/-- A command that fails no check stores exactly its output length. -/
theorem outData_length {i : Instr} {s : State} (h : firstFailing (checksOf i s) = none) :
    (outData i s).length = outBytes i s := by
  cases i with
  | window8 bpp hz mode ch =>
    simp only [outData, outBytes]
    split <;> simp
  | demosaic bpp ch layout target =>
    obtain ⟨hbpp, -⟩ := (demosaicChecks_none_iff ..).mp h
    exact elementBytes_demosaicKernel_length hbpp layout target _ s
  | endian | unpack8 | unpack16 | stretch16 | norm8 | gain => simp [outData, outBytes]

/-- Every command checks that its source ends inside memory (`60_exceptions.md` R202 step 11). -/
theorem source_le_memSize {i : Instr} {s : State} (h : firstFailing (checksOf i s) = none) :
    s.src.toNat + s.len.toNat ≤ s.params.memSize := by
  have hmem : checkSource s ∈ checksOf i s := by
    cases i <;> simp [checksOf, endianChecks, packedChecks, window8Checks, norm8Checks, gainChecks, demosaicChecks]
  exact (checkSource_passes s).mp ((firstFailing_eq_none_iff _).mp h _ hmem)

/-- The destination lies inside memory: ENDIAN's by its place in the source, the others' by step 12 of
`60_exceptions.md` R202. -/
theorem destination_le_memSize {i : Instr} {s : State} (h : firstFailing (checksOf i s) = none) :
    outBase i s + outBytes i s ≤ s.params.memSize := by
  cases i with
  | endian group =>
    obtain ⟨-, hoff, -, hsrc⟩ := (endianChecks_none_iff group s).mp h
    simp only [outBase, outBytes]
    omega
  | unpack8 | unpack16 | stretch16 | window8 | norm8 | gain | demosaic =>
    refine (checkDestination_passes _ s).mp ((firstFailing_eq_none_iff _).mp h _ ?_)
    simp [checksOf, outBytes, packedChecks, window8Checks, norm8Checks, gainChecks, demosaicChecks]

/-- Settles O20. -/
theorem successStaysInBounds : Obligations.SuccessStaysInBounds := by
  intro i s t h hok
  obtain ⟨hnone, -⟩ := successState_of_errcode_zero h hok
  exact ⟨source_le_memSize hnone, destination_le_memSize hnone⟩

/-- A success leaves every byte outside its destination range. -/
theorem completedOk_successState {i : Instr} {s : State} (h : firstFailing (checksOf i s) = none) :
    completedOk s (successState i s) (outBase i s) (outBytes i s) (outMaxval i s) :=
  ⟨fun _ ha => Memory.read_writeRange_outside _ _ _ _ (outData_length h ▸ ha), rfl⟩

/-- WINDOW8 below mode 5 and the commands without Normalize leave MAXVAL. -/
theorem outMaxval_of_not_normalizing {i : Instr} {s : State} (h : firstFailing (checksOf i s) = none)
    (hnorm : ∀ bpp ch, i ≠ .norm8 bpp ch) (hwin : ∀ bpp hz ch, i ≠ .window8 bpp hz 5 ch) :
    outMaxval i s = s.maxval := by
  cases i with
  | norm8 bpp ch => exact absurd rfl (hnorm bpp ch)
  | window8 bpp hz mode ch =>
    obtain ⟨hle, -⟩ := (window8Checks_none_iff ..).mp h
    have hne : mode.toNat ≠ 5 := fun h5 => hwin bpp hz ch (by rw [BitVec.eq_of_toNat_eq (y := (5 : BitVec 3)) h5])
    exact if_pos (by omega)
  | endian | unpack8 | unpack16 | stretch16 | gain | demosaic => rfl

/-- Settles O21. -/
theorem successWritesOnlyDestination : Obligations.SuccessWritesOnlyDestination := by
  intro i s t h hok
  obtain ⟨hnone, rfl⟩ := successState_of_errcode_zero h hok
  exact ⟨completedOk_successState hnone, outMaxval_of_not_normalizing hnone⟩

end Sys2Proof.Proofs
end

section
/-! Host operations and buffer memory (`20_memory.md` R61, R72, R74; `70_reset_and_hazards.md` R237): a byte access reaches
memory only inside it and while BUSY = 0. -/

namespace Sys2Proof.Proofs
open Sys2Proof Sys2Proof.Machine

theorem hostStep_memRead_fault {a : Nat} {s : State} {f : Fault} (h : memAccessFault a s = some f) :
    hostStep (.memRead a) s = State.record f s := by
  simp [hostStep, h]

theorem hostStep_memWrite_fault {a : Nat} {s : State} {f : Fault} (h : memAccessFault a s = some f) (b : Byte) :
    hostStep (.memWrite a b) s = State.record f s := by
  simp [hostStep, h]

theorem hostStep_memRead_none {a : Nat} {s : State} (h : memAccessFault a s = none) :
    hostStep (.memRead a) s = State.returnRead (.mem a (Memory.read s.mem a)) s := by
  simp [hostStep, h]

theorem hostStep_memWrite_none {a : Nat} {s : State} (h : memAccessFault a s = none) (b : Byte) :
    hostStep (.memWrite a b) s = State.store a [b] s := by
  simp [hostStep, h]

theorem memAccessFault_of_outside {a : Nat} {s : State} (h : s.params.memSize ≤ a) :
    memAccessFault a s = some .hostBadAccess := if_pos h

theorem memAccessFault_of_busy {a : Nat} {s : State} (h : a < s.params.memSize) (hb : s.busy = true) :
    memAccessFault a s = some .hostRace := by
  simp [memAccessFault, h, hb]

theorem memAccessFault_of_idle {a : Nat} {s : State} (h : a < s.params.memSize) (hb : s.busy = false) :
    memAccessFault a s = none := by
  simp [memAccessFault, h, hb]

/-- Settles O57. -/
theorem badMemoryAccessRecorded : Obligations.BadMemoryAccessRecorded := by
  intro s a b
  constructor
  · intro hout
    have hf := memAccessFault_of_outside hout
    exact ⟨hostStep_memRead_fault hf, hostStep_memWrite_fault hf b⟩
  · intro hin hb
    have hf := memAccessFault_of_busy hin hb
    exact ⟨hostStep_memRead_fault hf, hostStep_memWrite_fault hf b⟩

/-- Settles O58. -/
theorem hostByteAccess : Obligations.HostByteAccess := by
  intro s a b hin hb
  have hnone := memAccessFault_of_idle hin hb
  exact ⟨hostStep_memRead_none hnone, Memory.write s.mem a b, hostStep_memWrite_none hnone b,
    Memory.read_write_same _ _ _, Memory.read_write_other _ _ _⟩

/-- All a host operation can do, with the guard of its store: a byte is stored only inside memory and while BUSY = 0. -/
theorem hostStep_cases_guarded (op : HostOp) (s : State) :
    (∃ d, hostStep op s = State.returnRead d s) ∨
    (∃ r v, hostStep op s = writeReg r v s) ∨
    (∃ f, hostStep op s = State.record f s) ∨
    (∃ a b, a < s.params.memSize ∧ s.busy = false ∧ hostStep op s = State.store a [b] s) := by
  cases op with
  | regRead offset bytes =>
    cases h : accessedReg offset bytes with
    | none => exact .inr (.inr (.inl ⟨_, hostStep_regRead_none h s⟩))
    | some r => exact .inl ⟨_, hostStep_regRead h s⟩
  | regWrite offset bytes v =>
    cases h : accessedReg offset bytes with
    | none => exact .inr (.inr (.inl ⟨_, hostStep_regWrite_none h v s⟩))
    | some r => exact .inr (.inl ⟨r, v, hostStep_regWrite h v s⟩)
  | memRead a =>
    cases h : memAccessFault a s with
    | none => exact .inl ⟨_, hostStep_memRead_none h⟩
    | some f => exact .inr (.inr (.inl ⟨f, hostStep_memRead_fault h⟩))
  | memWrite a b =>
    obtain ⟨-, h⟩ | ⟨-, -, h⟩ | ⟨hin, hb, h⟩ := memAccessFault_cases a s
    · exact .inr (.inr (.inl ⟨_, hostStep_memWrite_fault h b⟩))
    · exact .inr (.inr (.inl ⟨_, hostStep_memWrite_fault h b⟩))
    · exact .inr (.inr (.inr ⟨a, b, hin, hb, hostStep_memWrite_none h b⟩))

/-- No register write touches the events to come, soft reset included. -/
theorem writeReg_events (r : Reg) (v : Word) (s : State) : (writeReg r v s).events = s.events := by
  obtain ⟨-, heq⟩ | ⟨-, heq⟩ := writeReg_cases r v s <;> rw [heq]
  cases r with
  | ctrl =>
    cases h : v.getLsbD 1 with
    | true => rw [writeRegIdle, writeCtrl_of_softReset h, State.softReset_events]
    | false => rw [writeRegIdle, writeCtrl_of_no_softReset h]
  | _ => rfl

theorem hostStep_events (op : HostOp) (s : State) : (hostStep op s).events = s.events := by
  obtain ⟨d, h⟩ | ⟨r, v, h⟩ | ⟨f, h⟩ | ⟨a, b, -, -, h⟩ := hostStep_cases_guarded op s <;> rw [h]
  · rfl
  · exact writeReg_events r v s
  · rfl
  · rfl

/-- While a command is in flight a host operation reaches the fault set and the list of reads alone. -/
theorem hostStep_of_busy {s : State} (hb : s.busy = true) (op : HostOp) :
    hostStep op s = { s with faults := (hostStep op s).faults, reads := (hostStep op s).reads } := by
  obtain ⟨d, h⟩ | ⟨r, v, h⟩ | ⟨f, h⟩ | ⟨a, b, -, hidle, -⟩ := hostStep_cases_guarded op s
  · rw [h]
    rfl
  · rw [h, writeReg_of_busy hb]
  · rw [h]
    rfl
  · exact absurd (hb.symm.trans hidle) (by decide)

/-- Settles O59. -/
theorem hostEventKeepsCommandInFlight : Obligations.HostEventKeepsCommandInFlight := by
  intro s op rest hev
  have hstep : step s = .next (hostStep op { s with events := rest }) := by simp [step, hev]
  exact ⟨_, hstep, rfl, hostStep_events op _, fun hb => hostStep_of_busy (s := { s with events := rest }) hb op⟩

end Sys2Proof.Proofs
end

section
/-! The invariant of the machine is inductive: each kind of step keeps it. -/

namespace Sys2Proof.Proofs
open Sys2Proof Sys2Proof.Machine

/-- Every result code is a code of `60_exceptions.md` R201. -/
theorem codeByte_mem_legalCodes (code : ResultCode) : codeByte code ∈ legalCodes := by
  cases code <;> decide

/-- A range write inside memory keeps the memory canonical and in range. -/
theorem memoryInRange_store {a : Nat} {bs : List Byte} {s : State} (h : s.memoryInRange)
    (hfit : a + bs.length ≤ s.params.memSize) : (State.store a bs s).memoryInRange := by
  obtain ⟨hwf, hrange⟩ := h
  refine ⟨Memory.writeRange_keeps_wf bs _ a hwf, fun c hc => ?_⟩
  obtain hold | ⟨-, hnew⟩ := Memory.mem_writeRange bs _ a c hc
  · exact hrange c hold
  · exact Nat.lt_of_lt_of_le hnew hfit

/-- A completion sets every status register, so they agree whatever they were. -/
theorem statusConsistent_complete {code : ResultCode} {n : Nat} {s : State} (hn : n ≤ s.params.memSize)
    (hcode : code ≠ .ok → n = 0) : (State.complete code n s).statusConsistent := by
  refine ⟨codeByte_mem_legalCodes code, by simp, by simp, fun hne => ?_, ?_⟩
  · rw [State.complete_outLen, hcode fun hok => hne (hok ▸ codeByte_ok)]
    rfl
  · exact (Nat.mod_le n _).trans hn

/-- Soft reset leaves no flag, no error code and no output length. -/
theorem statusConsistent_softReset (s : State) : (State.softReset s).statusConsistent :=
  ⟨codeByte_mem_legalCodes .ok, by simp, by simp, by simp, by simp⟩

/-- An issue clears the flags and keeps OUT_LEN (`10_state.md` R26). -/
theorem statusConsistent_issue {s : State} (hout : s.outLen.toNat ≤ s.params.memSize) (v : Word) :
    (State.issue v s).statusConsistent :=
  ⟨codeByte_mem_legalCodes .ok, by simp, by simp, by simp, hout⟩

/-- A host write of CTRL, STATUS or CMD keeps the status registers consistent; no other register is one of them. -/
theorem statusConsistent_writeReg {s : State} (h : s.statusConsistent) (r : Reg) (v : Word) :
    (writeReg r v s).statusConsistent := by
  obtain ⟨-, heq⟩ | ⟨hb, heq⟩ := writeReg_cases r v s <;> rw [heq]
  · exact h
  obtain ⟨hlegal, hbusy, herr, herrcode, hout⟩ := h
  cases r with
  | ctrl =>
    cases hv : v.getLsbD 1 with
    | true =>
      rw [writeRegIdle, writeCtrl_of_softReset hv]
      exact statusConsistent_softReset s
    | false =>
      rw [writeRegIdle, writeCtrl_of_no_softReset hv]
      exact ⟨hlegal, hbusy, herr, herrcode, hout⟩
  | status =>
    refine ⟨hlegal, fun hbusy' => absurd (hb.symm.trans hbusy') (by decide), fun herr' => herr ?_, herrcode, hout⟩
    exact (Bool.and_eq_true_iff.mp herr').1
  | cmd => exact statusConsistent_issue hout v
  | _ => exact ⟨hlegal, hbusy, herr, herrcode, hout⟩

theorem inv_writeReg {s : State} (h : State.inv s) (r : Reg) (v : Word) : State.inv (writeReg r v s) := by
  obtain ⟨hp, hmem, hstatus⟩ := h
  obtain ⟨hparams, hm, -⟩ := writeReg_keeps r v s
  refine ⟨hparams ▸ hp, ?_, statusConsistent_writeReg hstatus r v⟩
  simpa only [State.memoryInRange, hparams, hm] using hmem

theorem inv_hostStep {s : State} (h : State.inv s) (op : HostOp) : State.inv (hostStep op s) := by
  obtain ⟨d, heq⟩ | ⟨r, v, heq⟩ | ⟨f, heq⟩ | ⟨a, b, hin, -, heq⟩ := hostStep_cases_guarded op s <;> rw [heq]
  · exact h
  · exact inv_writeReg h r v
  · exact h
  · obtain ⟨hp, hmem, hstatus⟩ := h
    exact ⟨hp, memoryInRange_store hmem hin, hstatus⟩

/-- A command that ends with an error code leaves memory and sets OUT_LEN to 0 (`60_exceptions.md` R203). -/
theorem inv_complete_error {s : State} (h : State.inv s) (code : ResultCode) :
    State.inv (State.complete code 0 s) := by
  obtain ⟨hp, hmem, -⟩ := h
  exact ⟨hp, hmem, statusConsistent_complete (Nat.zero_le _) fun _ => rfl⟩

/-- A success writes inside memory, and no more bytes than memory has. -/
theorem inv_successState {i : Instr} {s : State} (h : State.inv s) (hnone : firstFailing (checksOf i s) = none) :
    State.inv (successState i s) := by
  obtain ⟨hp, hmem, -⟩ := h
  have hfit := destination_le_memSize hnone
  exact ⟨hp, memoryInRange_store hmem (outData_length hnone ▸ hfit),
    statusConsistent_complete ((Nat.le_add_left _ _).trans hfit) fun hne => absurd rfl hne⟩

theorem inv_exec {i : Instr} {s t : State} (h : State.inv s) (hexec : exec i s = .next t) : State.inv t := by
  obtain ⟨code, -, -, rfl⟩ | ⟨hnone, rfl⟩ := exec_cases_successState hexec
  · exact inv_complete_error h code
  · exact inv_successState h hnone

theorem inv_engineStep {s t : State} (h : State.inv s) (hstep : engineStep s = .next t) : State.inv t := by
  obtain ⟨-, heq⟩ | ⟨e, -, -, heq⟩ | ⟨i, -, -, heq⟩ := engineStep_cases s <;> rw [heq] at hstep
  · cases hstep
    exact h
  · cases hstep
    exact inv_complete_error h _
  · exact inv_exec h hstep

/-- Settles O14: the invariant does not speak of the events to come, so each step is the engine's turn or a host operation
from a state that has it. -/
theorem stepKeepsInvariant : Obligations.StepKeepsInvariant := by
  intro s t h hstep
  obtain ⟨-, heq⟩ | ⟨rest, -, heq⟩ | ⟨op, rest, -, heq⟩ := step_cases s <;> rw [heq] at hstep
  · exact inv_engineStep h hstep
  · exact inv_engineStep (s := { s with events := rest }) h hstep
  · cases hstep
    exact inv_hostStep (s := { s with events := rest }) h op

end Sys2Proof.Proofs
end

section
/-! What a command reads of memory (`20_memory.md` R68): its source range alone. -/

namespace Sys2Proof.Proofs
open Sys2Proof Sys2Proof.Machine

/-- Two memories hold the same bytes at the `n` addresses from `base` on. -/
def AgreeOn (m m' : Memory) (base n : Nat) : Prop :=
  ∀ a, base ≤ a → a < base + n → Memory.read m a = Memory.read m' a

section
variable {m m' : Memory} {base n : Nat} (h : AgreeOn m m' base n)
include h

theorem rd8_eq_of_agreeOn {k : Nat} (hk : k < n) : Memory.rd8 m (base + k) = Memory.rd8 m' (base + k) :=
  congrArg BitVec.toNat (h _ (by omega) (by omega))

theorem rdBE16_eq_of_agreeOn {k : Nat} (hk : k + 1 < n) :
    Memory.rdBE16 m (base + k) = Memory.rdBE16 m' (base + k) := by
  rw [Memory.rdBE16, Memory.rdBE16, add_assoc, rd8_eq_of_agreeOn h hk, rd8_eq_of_agreeOn h (Nat.lt_of_succ_lt hk)]

theorem rdW_eq_of_agreeOn {k : Nat} (hk : k + 1 < n) (o : WordOrder) :
    Memory.rdW o m (base + k) = Memory.rdW o m' (base + k) := by
  cases o <;>
    simp only [Memory.rdW, add_assoc, rd8_eq_of_agreeOn h hk, rd8_eq_of_agreeOn h (Nat.lt_of_succ_lt hk)]

theorem reversedByte_eq_of_agreeOn {g t : Nat} (hg : n % g = 0) (ht : t < n) :
    reversedByte m base g t = reversedByte m' base g t := by
  obtain ⟨k, rfl⟩ := Nat.dvd_of_mod_eq_zero hg
  have hpos : 0 < g := Nat.pos_of_ne_zero (by rintro rfl; simp at ht)
  have hgroup : t / g * g + g ≤ g * k := by
    rw [← Nat.succ_mul, Nat.mul_comm g k]
    exact Nat.mul_le_mul_right g (Nat.div_lt_of_lt_mul ht)
  exact h _ (by omega) (by omega)

theorem reversedGroups_eq_of_agreeOn {g : Nat} (hg : n % g = 0) :
    reversedGroups m base g n = reversedGroups m' base g n :=
  List.map_congr_left fun _ ht => reversedByte_eq_of_agreeOn h hg (List.mem_range.mp ht)

end

/-- Sample i lies in the first ExpLen(N) bytes of the source, for every packing convention (`41_bitunpack.md` R120,
R121). -/
theorem sample_eq_of_agreeOn {m m' : Memory} {src N i : Nat} {bpp : Bpp} {hz : Bool}
    (h : AgreeOn m m' src (expectedLength bpp hz N)) (hi : i < N) : sample m src bpp hz i = sample m' src bpp hz i := by
  cases bpp with
  | depth8 =>
    simp only [expectedLength, containerBits] at h
    exact rd8_eq_of_agreeOn h (by omega)
  | depth12 =>
    cases hz with
    | true =>
      simp only [expectedLength, containerBits] at h
      have h0 := rd8_eq_of_agreeOn h (k := 2 * i) (by omega)
      have h1 := rd8_eq_of_agreeOn h (k := 2 * i + 1) (by omega)
      simp only [sample, add_assoc, h0, h1]
    | false =>
      simp only [expectedLength, containerBits] at h
      have h1 := rd8_eq_of_agreeOn h (k := 3 * (i / 2) + 1) (by omega)
      simp only [sample, add_assoc, h1]
      split
      · rw [rd8_eq_of_agreeOn h (by omega)]
      · rw [rd8_eq_of_agreeOn h (by omega)]
  | depth16 =>
    simp only [expectedLength, containerBits] at h
    exact rdBE16_eq_of_agreeOn h (by omega)
  | noDepth => rfl

/-- Element i lies in the first N * bpp / 8 bytes of the source (`42_range_reduce.md` R162). -/
theorem element_eq_of_agreeOn {m m' : Memory} {src N i : Nat} {bpp : Bpp} (hbpp : elementDepthLegal bpp = true)
    (h : AgreeOn m m' src (N * bppBits bpp / 8)) (hi : i < N) (o : WordOrder) :
    element o m src bpp i = element o m' src bpp i := by
  cases bpp with
  | depth8 => exact rd8_eq_of_agreeOn h (by simp only [bppBits]; omega)
  | depth16 => exact rdW_eq_of_agreeOn h (by simp only [bppBits]; omega) o
  | depth12 | noDepth => exact absurd hbpp (by decide)

section
variable {s : State} {m : Memory} (h : AgreeOn m s.mem s.src.toNat s.len.toNat)
include h

theorem samples_withMem {bpp : Bpp} {hz : Bool} {ch : BitVec 2} {n : Nat} (hr : packedReady bpp hz ch n s) :
    samples bpp hz ch { s with mem := m } = samples bpp hz ch s := by
  obtain ⟨-, -, -, -, hlen, -⟩ := hr
  exact List.map_congr_left fun _ hi => sample_eq_of_agreeOn (hlen ▸ h) (List.mem_range.mp hi)

theorem elements_withMem {bpp : Bpp} {n : Nat} (hbpp : elementDepthLegal bpp = true)
    (hlen : s.len.toNat = n * bppBits bpp / 8) : elements bpp n { s with mem := m } = elements bpp n s :=
  List.map_congr_left fun _ hi => element_eq_of_agreeOn hbpp (hlen ▸ h) (List.mem_range.mp hi) s.params.wordOrder

theorem gainSample_withMem {i : Nat} (hi : i < s.len.toNat) (layout : Layout) :
    gainSample layout { s with mem := m } i = gainSample layout s i := by
  simp only [gainSample, rd8_eq_of_agreeOn h hi]
  rfl

end

/-- No check and no length looks at memory (`60_exceptions.md` R203). -/
theorem checksOf_withMem (i : Instr) (s : State) (m : Memory) : checksOf i { s with mem := m } = checksOf i s := by
  cases i <;> rfl

theorem outBytes_withMem (i : Instr) (s : State) (m : Memory) : outBytes i { s with mem := m } = outBytes i s := by
  cases i <;> rfl

theorem outBase_withMem (i : Instr) (s : State) (m : Memory) : outBase i { s with mem := m } = outBase i s := by
  cases i <;> rfl

/-- The stored bytes come from the source range alone. -/
theorem outData_withMem {i : Instr} {s : State} {m : Memory} (h : AgreeOn m s.mem s.src.toNat s.len.toNat)
    (hnone : firstFailing (checksOf i s) = none) : outData i { s with mem := m } = outData i s := by
  cases i with
  | endian group =>
    obtain ⟨-, hoff, hgroups, -⟩ := (endianChecks_none_iff group s).mp hnone
    have hregion : AgreeOn m s.mem (s.src.toNat + s.offset.toNat) (s.len.toNat - s.offset.toNat) :=
      fun a hlo hhi => h a (by omega) (by omega)
    exact reversedGroups_eq_of_agreeOn hregion hgroups
  | unpack8 bpp hz ch | unpack16 bpp hz ch | stretch16 bpp hz ch =>
    simp only [outData, samples_withMem h ((packedChecks_none_iff ..).mp hnone)]
  | window8 bpp hz mode ch =>
    obtain ⟨-, hr⟩ := (window8Checks_none_iff ..).mp hnone
    simp only [outData, samples_withMem h hr]
  | norm8 bpp ch =>
    obtain ⟨hbpp, -, -, -, hlen, -⟩ := (norm8Checks_none_iff ..).mp hnone
    exact congrArg (fun xs => byteList (normalize s.params.normRound xs)) (elements_withMem h hbpp hlen)
  | gain bpp ch layout =>
    obtain ⟨-, -, -, -, -, -, hlen, -⟩ := (gainChecks_none_iff ..).mp hnone
    exact congrArg byteList (List.map_congr_left fun _ hi =>
      gainSample_withMem h (hlen ▸ List.mem_range.mp hi) layout)
  | demosaic bpp ch layout target =>
    obtain ⟨hbpp, -, -, hlen, -⟩ := (demosaicChecks_none_iff ..).mp hnone
    exact congrArg (fun xs => elementBytes s.params.wordOrder bpp
      (demosaicKernel layout target (bppBits bpp) s.width.toNat s.height.toNat xs)) (elements_withMem h hbpp hlen)

/-- MAXVAL comes from the source range alone. -/
theorem outMaxval_withMem {i : Instr} {s : State} {m : Memory} (h : AgreeOn m s.mem s.src.toNat s.len.toNat)
    (hnone : firstFailing (checksOf i s) = none) : outMaxval i { s with mem := m } = outMaxval i s := by
  cases i with
  | window8 bpp hz mode ch =>
    obtain ⟨-, hr⟩ := (window8Checks_none_iff ..).mp hnone
    simp only [outMaxval, samples_withMem h hr]
  | norm8 bpp ch =>
    obtain ⟨hbpp, -, -, -, hlen, -⟩ := (norm8Checks_none_iff ..).mp hnone
    exact congrArg (fun xs => BitVec.ofNat 16 (maxSample xs)) (elements_withMem h hbpp hlen)
  | endian | unpack8 | unpack16 | stretch16 | gain | demosaic => rfl

/-- A success from agreeing memories gives the same registers. -/
theorem successState_withMem {i : Instr} {s : State} {m : Memory} (h : AgreeOn m s.mem s.src.toNat s.len.toNat)
    (hnone : firstFailing (checksOf i s) = none) :
    successState i { s with mem := m } =
      { successState i s with mem := Memory.writeRange m (outBase i s) (outData i s) } := by
  simp only [successState, outBytes_withMem, outBase_withMem, outData_withMem h hnone, outMaxval_withMem h hnone]
  rfl

/-- Settles O23: the verdict does not look at memory, and a success stores the same bytes and the same MAXVAL. -/
theorem resultDependsOnSourceBytesOnly : Obligations.ResultDependsOnSourceBytesOnly := by
  intro i s m t u hagree ht hu
  have hu := exec_cases_successState hu
  rw [checksOf_withMem] at hu
  obtain ⟨code, hne, hfail, rfl⟩ | ⟨hnone, rfl⟩ := exec_cases_successState ht <;>
    obtain ⟨code', -, hfail', rfl⟩ | ⟨hnone', rfl⟩ := hu
  · cases hfail.symm.trans hfail'
    exact ⟨rfl, fun hok => absurd ((codeByte_eq_zero_iff code).mp hok) hne⟩
  · exact absurd (hfail.symm.trans hnone') (by simp)
  · exact absurd (hnone.symm.trans hfail') (by simp)
  · rw [successState_withMem hagree hnone]
    refine ⟨rfl, fun _ k hk => ?_⟩
    have hk : k < (outData i s).length := outData_length hnone ▸ hk
    exact (Memory.read_writeRange_inside _ m _ k hk).trans (Memory.read_writeRange_inside _ s.mem _ k hk).symm

end Sys2Proof.Proofs
end

section
/-! Byte order (`20_memory.md` R64). -/

namespace Sys2Proof.Proofs
open Sys2Proof Sys2Proof.Machine

/-- `WrW` leaves the word at its address, high byte first or last by WORD_ORDER. -/
theorem holdsWord_writeRange (o : WordOrder) (m : Memory) (a : Nat) (v : Half) :
    holdsWord o (Memory.writeRange m a (wordBytes o v.toNat)) a v := by
  cases o with
  | be => exact ⟨Memory.read_writeRange_inside _ m a 0 (by simp), Memory.read_writeRange_inside _ m a 1 (by simp)⟩
  | le => exact ⟨Memory.read_writeRange_inside _ m a 0 (by simp), Memory.read_writeRange_inside _ m a 1 (by simp)⟩

/-- A word's number is its high byte times 256 and its low byte. -/
theorem high_low_toNat (v : Half) : (v.extractLsb' 8 8).toNat * 256 + (v.extractLsb' 0 8).toNat = v.toNat := by
  simp only [BitVec.extractLsb'_toNat, Nat.shiftRight_eq_div_pow]
  have := v.isLt
  omega

/-- `RdW` reads the word that stands at an address. -/
theorem rdW_of_holdsWord {o : WordOrder} {m : Memory} {a : Nat} {v : Half} (h : holdsWord o m a v) :
    Memory.rdW o m a = v.toNat := by
  cases o with
  | be =>
    obtain ⟨hhigh, hlow⟩ := h
    rw [Memory.rdW, Memory.rd8, Memory.rd8, hhigh, hlow, high_low_toNat]
  | le =>
    obtain ⟨hlow, hhigh⟩ := h
    rw [Memory.rdW, Memory.rd8, Memory.rd8, hhigh, hlow, high_low_toNat]

/-- Settles O47. -/
theorem wordOrderReadsBack : Obligations.WordOrderReadsBack := fun o m a v =>
  ⟨holdsWord_writeRange o m a v, rdW_of_holdsWord (holdsWord_writeRange o m a v)⟩

end Sys2Proof.Proofs
end

section
/-! Decoding and encoding are inverse (`30_encoding.md` R94, R97): a row's mask and the fields the row uses cover the word,
so the fields a word spells and the row's match word leave no bit of it open. -/

namespace Sys2Proof.Proofs
open Sys2Proof Sys2Proof.Machine

/-- Settles O1. -/
theorem decodeEncodeRoundTrip : Obligations.DecodeEncodeRoundTrip := decode_encode

/-- Settles O4: each word is the encoding of its command. -/
theorem specWordsDecode : Obligations.SpecWordsDecode :=
  ⟨decode_encode (.endian 2), decode_encode (.unpack8 .depth12 true 1), decode_encode (.unpack16 .depth8 false 3),
    decode_encode (.stretch16 .depth12 false 1), decode_encode (.window8 .depth12 true 2 1),
    decode_encode (.norm8 .depth16 1), decode_encode (.gain .depth8 1 .grbg),
    decode_encode (.demosaic .depth16 1 .rggb .rgb)⟩

/-- Two words agree on the bits of a mask. -/
def AgreeOnBits (mask v w : Word) : Prop := v &&& mask = w &&& mask

/-- The bits of the field of `len` bits from bit `start` on. -/
def fieldMask (start len : Nat) : Word := (BitVec.allOnes len).setWidth 32 <<< start

theorem agreeOnBits_or {a b v w : Word} (ha : AgreeOnBits a v w) (hb : AgreeOnBits b v w) : AgreeOnBits (a ||| b) v w := by
  unfold AgreeOnBits at *
  rw [BitVec.and_or_distrib_left, ha, hb, ← BitVec.and_or_distrib_left]

theorem eq_of_agreeOnBits_allOnes {v w : Word} (h : AgreeOnBits (BitVec.allOnes 32) v w) : v = w := by
  simpa only [AgreeOnBits, BitVec.and_allOnes] using h

/-- Two words with the same field agree on its bits. -/
theorem agreeOnBits_fieldMask {start len : Nat} {v w : Word} (h : v.extractLsb' start len = w.extractLsb' start len) :
    AgreeOnBits (fieldMask start len) v w := by
  apply BitVec.eq_of_getLsbD_eq
  intro k hk
  by_cases hin : start ≤ k ∧ k - start < len
  · obtain ⟨hle, hlt⟩ := hin
    have hbit : v.getLsbD k = w.getLsbD k := by
      simpa [BitVec.getLsbD_extractLsb', hlt, Nat.add_sub_cancel' hle] using congrArg (·.getLsbD (k - start)) h
    simp [hbit]
  · have hout : (fieldMask start len).getLsbD k = false := by
      simp only [fieldMask, BitVec.getLsbD_shiftLeft, BitVec.getLsbD_setWidth, BitVec.getLsbD_allOnes,
        Bool.and_eq_false_iff, decide_eq_false_iff_not, Bool.not_eq_false', decide_eq_true_eq]
      omega
    simp [hout]

/-- Two words with the same bit agree on it. -/
theorem agreeOnBits_bit {k : Nat} {v w : Word} (h : v.getLsbD k = w.getLsbD k) : AgreeOnBits (fieldMask k 1) v w := by
  apply agreeOnBits_fieldMask
  ext j hj
  obtain rfl : j = 0 := by omega
  simpa using h

theorem bppOfCode_injective : Function.Injective bppOfCode := by decide

theorem layoutOfCode_injective : Function.Injective layoutOfCode := by decide

theorem targetOfCode_injective : Function.Injective targetOfCode := by decide

/-- The bits of the fields that a row uses (`30_encoding.md` R92). -/
def usedBits : Mnemonic → Word
  | .endian => fieldMask 20 4
  | .unpack8 => fieldMask 4 2 ||| fieldMask 6 1 ||| fieldMask 12 2
  | .unpack16 => fieldMask 4 2 ||| fieldMask 6 1 ||| fieldMask 12 2
  | .stretch16 => fieldMask 4 2 ||| fieldMask 6 1 ||| fieldMask 12 2
  | .window8 => fieldMask 4 2 ||| fieldMask 6 1 ||| fieldMask 8 3 ||| fieldMask 12 2
  | .norm8 => fieldMask 4 2 ||| fieldMask 12 2
  | .gain => fieldMask 4 2 ||| fieldMask 12 2 ||| fieldMask 14 2
  | .demosaic => fieldMask 4 2 ||| fieldMask 12 2 ||| fieldMask 14 2 ||| fieldMask 16 1

/-- A row's mask and its used fields cover the word (`30_encoding.md` R93). -/
theorem rowMask_or_usedBits (m : Mnemonic) : rowMask m ||| usedBits m = BitVec.allOnes 32 := by
  cases m <;> rfl

section
variable {v w : Word}

theorem agreeOnBits_bpp (h : bppOfCode (fieldBpp v) = bppOfCode (fieldBpp w)) : AgreeOnBits (fieldMask 4 2) v w :=
  agreeOnBits_fieldMask (bppOfCode_injective h)

theorem agreeOnBits_layout (h : layoutOfCode (fieldLayout v) = layoutOfCode (fieldLayout w)) :
    AgreeOnBits (fieldMask 14 2) v w :=
  agreeOnBits_fieldMask (layoutOfCode_injective h)

theorem agreeOnBits_target (h : targetOfCode (fieldTarget v) = targetOfCode (fieldTarget w)) :
    AgreeOnBits (fieldMask 16 1) v w :=
  agreeOnBits_bit (targetOfCode_injective h)

theorem agreeOnBits_bpp_hz_ch (hbpp : bppOfCode (fieldBpp v) = bppOfCode (fieldBpp w)) (hhz : fieldHz v = fieldHz w)
    (hch : fieldCh v = fieldCh w) : AgreeOnBits (fieldMask 4 2 ||| fieldMask 6 1 ||| fieldMask 12 2) v w :=
  agreeOnBits_or (agreeOnBits_or (agreeOnBits_bpp hbpp) (agreeOnBits_bit hhz)) (agreeOnBits_fieldMask hch)

/-- Two words that spell the same command of a row agree on the fields the row uses. -/
theorem agreeOnBits_usedBits {m : Mnemonic} (h : spell v m = spell w m) : AgreeOnBits (usedBits m) v w := by
  cases m with
  | endian => injection h with hgroup; exact agreeOnBits_fieldMask hgroup
  | unpack8 => injection h with hbpp hhz hch; exact agreeOnBits_bpp_hz_ch hbpp hhz hch
  | unpack16 => injection h with hbpp hhz hch; exact agreeOnBits_bpp_hz_ch hbpp hhz hch
  | stretch16 => injection h with hbpp hhz hch; exact agreeOnBits_bpp_hz_ch hbpp hhz hch
  | window8 =>
    injection h with hbpp hhz hmode hch
    exact agreeOnBits_or (agreeOnBits_or (agreeOnBits_or (agreeOnBits_bpp hbpp) (agreeOnBits_bit hhz))
      (agreeOnBits_fieldMask hmode)) (agreeOnBits_fieldMask hch)
  | norm8 =>
    injection h with hbpp hch
    exact agreeOnBits_or (agreeOnBits_bpp hbpp) (agreeOnBits_fieldMask hch)
  | gain =>
    injection h with hbpp hch hlayout
    exact agreeOnBits_or (agreeOnBits_or (agreeOnBits_bpp hbpp) (agreeOnBits_fieldMask hch)) (agreeOnBits_layout hlayout)
  | demosaic =>
    injection h with hbpp hch hlayout htarget
    exact agreeOnBits_or (agreeOnBits_or (agreeOnBits_or (agreeOnBits_bpp hbpp) (agreeOnBits_fieldMask hch))
      (agreeOnBits_layout hlayout)) (agreeOnBits_target htarget)

/-- Two words of a row that spell the same command are the same word. -/
theorem eq_of_spell_eq {m : Mnemonic} (hrow : AgreeOnBits (rowMask m) v w) (h : spell v m = spell w m) : v = w :=
  eq_of_agreeOnBits_allOnes (rowMask_or_usedBits m ▸ agreeOnBits_or hrow (agreeOnBits_usedBits h))

end

@[simp] theorem spell_mnemonic (w : Word) (m : Mnemonic) : (spell w m).mnemonic = m := by cases m <;> rfl

/-- All a successful decode can be: the word matches a row and spells that row's command (`30_encoding.md` R94). -/
theorem decode_eq_ok_iff (w : Word) (i : Instr) :
    decode w = .ok i ↔ ∃ m, w &&& rowMask m = rowMatch m ∧ spell w m = i := by
  constructor
  · intro h
    simp only [decode] at h
    split at h
    · cases h
    · rename_i m _
      split at h
      · rename_i hrow
        injection h with h
        exact ⟨m, hrow, h⟩
      · cases h
  · rintro ⟨m, hrow, rfl⟩
    exact decode_of_rowMatch hrow

/-- Settles O2: the word and the encoding match the same row and spell the same command. -/
theorem encodeDecodeRoundTrip : Obligations.EncodeDecodeRoundTrip := by
  intro w i h
  obtain ⟨m, hrow, rfl⟩ := (decode_eq_ok_iff w i).mp h
  have hmatch := encode_and_rowMask (spell w m)
  have hspell := spell_encode (spell w m)
  rw [spell_mnemonic] at hmatch hspell
  exact eq_of_spell_eq (hmatch.trans hrow.symm) hspell

end Sys2Proof.Proofs
end

section
/-! Words that spell no command (`30_encoding.md` R82, R93, R95) complete with their code and nothing written. -/

namespace Sys2Proof.Proofs
open Sys2Proof Sys2Proof.Machine

theorem fieldOp_toNat (w : Word) : (fieldOp w).toNat = w.toNat % 16 := by
  simp [fieldOp]

/-- The legal opcodes are 1 .. 8 (`30_encoding.md` R82). -/
theorem mnemonicOfOp_eq_none_iff (op : BitVec 4) : mnemonicOfOp op = none ↔ op.toNat = 0 ∨ 8 < op.toNat := by
  revert op; decide

theorem decode_of_illegalOp {w : Word} (h : mnemonicOfOp (fieldOp w) = none) : decode w = .error .cfgOpcode := by
  simp [decode, h]

/-- Every row's mask covers the always-reserved bits, and no match word sets one (`30_encoding.md` R93). -/
theorem reserved_of_rowMatch {w : Word} {m : Mnemonic} (h : w &&& rowMask m = rowMatch m) : w &&& 0xFF0E0880 = 0 := by
  have hmask : rowMask m &&& 0xFF0E0880 = 0xFF0E0880 := by cases m <;> rfl
  have hmatch : rowMatch m &&& 0xFF0E0880 = 0 := by cases m <;> rfl
  rw [← hmask, ← BitVec.and_assoc, h, hmatch]

theorem decode_of_reserved {w : Word} {m : Mnemonic} (hop : mnemonicOfOp (fieldOp w) = some m)
    (h : w &&& 0xFF0E0880 ≠ 0) : decode w = .error .cfgReserved := by
  simp [decode, hop, mt reserved_of_rowMatch h]

theorem completeWord_of_error {w : Word} {e : DecodeError} (h : decode w = .error e) (s : State) :
    completeWord w s = .next (State.raise (decodeErrorCode e) s) := by
  simp [completeWord, h]

/-- Settles O3. -/
theorem illegalWordsRefused : Obligations.IllegalWordsRefused := by
  intro w s
  rw [← fieldOp_toNat]
  constructor
  · intro hop
    have hdecode := decode_of_illegalOp ((mnemonicOfOp_eq_none_iff _).mpr hop)
    exact ⟨_, completeWord_of_error hdecode s, rfl, rfl⟩
  · intro hop hres
    have hlegal : mnemonicOfOp (fieldOp w) ≠ none := by
      rw [Ne, mnemonicOfOp_eq_none_iff]
      omega
    obtain ⟨m, hm⟩ := Option.ne_none_iff_exists'.mp hlegal
    exact ⟨_, completeWord_of_error (decode_of_reserved hm hres) s, rfl, rfl⟩

end Sys2Proof.Proofs
end

section
/-! A command's check table is its form checks, steps 3 to 7 of `60_exceptions.md` R202, and then checks of the state. -/

namespace Sys2Proof.Proofs
open Sys2Proof Sys2Proof.Machine

/-- Steps 3 to 7 of `60_exceptions.md` R202, which judge a command by its fields alone. -/
def formChecks : Instr → List Check
  | .endian group => [checkGroup group]
  | .unpack8 bpp hz ch => [checkBpp [.depth8, .depth12, .depth16] bpp, checkHz16 bpp hz, checkChannels ch]
  | .unpack16 bpp hz ch => [checkBpp [.depth8, .depth12, .depth16] bpp, checkHz16 bpp hz, checkChannels ch]
  | .stretch16 bpp hz ch => [checkBpp [.depth8, .depth12, .depth16] bpp, checkHz16 bpp hz, checkChannels ch]
  | .window8 bpp hz mode ch =>
    [checkBpp [.depth8, .depth12, .depth16] bpp, checkHz16 bpp hz, checkMode mode, checkChannels ch]
  | .norm8 bpp ch => [checkBpp [.depth8, .depth16] bpp, checkChannels ch]
  | .gain bpp ch _ => [checkBpp [.depth8] bpp, checkOneChannel ch]
  | .demosaic bpp ch _ _ => [checkBpp [.depth8, .depth16] bpp, checkOneChannel ch]

/-- The codes of steps 3 to 7 (`60_exceptions.md` R202). -/
def formCodes : List ResultCode := [.cfgBpp, .cfgHz16, .cfgMode, .cfgChannels, .cfgGroup]

/-- They are the ERRCODE values 0x03 .. 0x07 (`60_exceptions.md` R201). -/
theorem mem_formCodes_iff (code : ResultCode) :
    code ∈ formCodes ↔ 0x03 ≤ (codeByte code).toNat ∧ (codeByte code).toNat ≤ 0x07 := by
  cases code <;> decide

theorem mem_formCodes_of_mem_formChecks {i : Instr} {c : Check} (h : c ∈ formChecks i) : c.2 ∈ formCodes := by
  revert c
  cases i <;> simp [formChecks, formCodes, checkBpp, checkHz16, checkMode, checkChannels, checkOneChannel, checkGroup]

/-- The table of a command starts with its form checks, and no later check reports one of their codes. -/
theorem checksOf_eq_formChecks_append (i : Instr) (s : State) :
    ∃ rest, checksOf i s = formChecks i ++ rest ∧ ∀ c ∈ rest, c.2 ∉ formCodes := by
  cases i <;> refine ⟨_, rfl, ?_⟩ <;>
    simp [formCodes, checkDim, checkEvenDim, checkGains, checkGroups, checkPacked, checkLength, checkSource,
      checkDestination]

theorem firstFailing_nil : firstFailing [] = none := rfl

theorem firstFailing_cons_eq_none_iff (c : Check) (cs : List Check) :
    firstFailing (c :: cs) = none ↔ c.1 = false ∧ firstFailing cs = none := by
  simp only [firstFailing_eq_none_iff, List.forall_mem_cons]

/-- The form checks find nothing exactly when the command is well-formed (`30_encoding.md` R92). -/
theorem formChecks_none_iff (i : Instr) : firstFailing (formChecks i) = none ↔ i.wellFormed = true := by
  cases i with
  | endian group =>
    simp only [formChecks, Instr.wellFormed, firstFailing_cons_eq_none_iff, firstFailing_nil, checkGroup_passes,
      bne_iff_ne, and_true]
  | gain bpp ch layout =>
    simp only [formChecks, Instr.wellFormed, firstFailing_cons_eq_none_iff, firstFailing_nil, checkBpp_depth8_passes,
      checkOneChannel_passes, Bool.and_eq_true, beq_iff_eq, and_true]
  | _ =>
    simp only [formChecks, Instr.wellFormed, firstFailing_cons_eq_none_iff, firstFailing_nil, checkBpp_passes,
      checkHz16_passes, checkMode_passes, checkChannels_passes, checkOneChannel_passes, Bool.and_eq_true,
      unpackDepthLegal_iff, elementDepthLegal_iff, decide_eq_true_eq, beq_iff_eq, and_true, and_assoc]

/-- In a table of two parts the first part's failures come first. -/
theorem firstFailing_append (cs ds : List Check) : firstFailing (cs ++ ds) = (firstFailing cs).or (firstFailing ds) := by
  induction cs with
  | nil => rfl
  | cons c cs ih =>
    obtain ⟨holds, code⟩ := c
    cases holds
    · exact ih
    · rfl

/-- A command is ill-formed exactly when the first failing check of its table reports a form code. -/
theorem wellFormed_eq_false_iff (i : Instr) (s : State) :
    i.wellFormed = false ↔ ∃ code, firstFailing (checksOf i s) = some code ∧ code ∈ formCodes := by
  obtain ⟨rest, htable, hrest⟩ := checksOf_eq_formChecks_append i s
  rw [htable, firstFailing_append, ← Bool.not_eq_true, ← formChecks_none_iff]
  cases hform : firstFailing (formChecks i) with
  | none =>
    have hlater : ∀ code, firstFailing rest = some code → code ∉ formCodes := fun code h =>
      hrest _ (firstFailing_mem _ _ h)
    simpa using hlater
  | some code =>
    have hcode : code ∈ formCodes := mem_formCodes_of_mem_formChecks (firstFailing_mem _ _ hform)
    simpa using hcode

/-- Settles O5: the reported code is the first failing check's, and OK when none fails. -/
theorem illFormedExactlyFormCodes : Obligations.IllFormedExactlyFormCodes := by
  intro i s
  obtain ⟨t, ht⟩ := exec_answers i s
  refine ⟨t, ht, ?_⟩
  rw [wellFormed_eq_false_iff i s]
  obtain ⟨code, -, hcode, rfl⟩ | ⟨hnone, m, mx, rfl⟩ := exec_cases ht
  · simp [hcode, mem_formCodes_iff]
  · simp [hnone, codeByte]

end Sys2Proof.Proofs
end

section
/-! The assembler (`30_encoding.md` R97, R98): what it emits is the encoding of a well-formed command. -/

namespace Sys2Proof.Proofs
open Sys2Proof Sys2Proof.Machine

/-- What the assembler emits is the encoding of the command the line names, which it has found well-formed. -/
theorem eq_encode_of_assemble {m : Mnemonic} {args : List (AsmKey × AsmValue)} {w : Word} (h : assemble m args = some w) :
    (asmCommand m args).wellFormed = true ∧ encode (asmCommand m args) = w := by
  obtain ⟨⟨-, -, hwf⟩, hw⟩ := Option.ite_none_right_eq_some.mp h
  exact ⟨hwf, Option.some.inj hw⟩

/-- A pseudo-command's word is the encoding of its expansion (`30_encoding.md` R98). -/
theorem eq_encode_of_assemblePseudo {p : Pseudo} {args : List (AsmKey × AsmValue)} {w : Word}
    (h : assemblePseudo p args = some w) :
    (pseudoCommand p args).wellFormed = true ∧ encode (pseudoCommand p args) = w := by
  obtain ⟨⟨-, -, hwf⟩, hw⟩ := Option.ite_none_right_eq_some.mp h
  exact ⟨hwf, Option.some.inj hw⟩

@[simp] theorem asmCommand_mnemonic (m : Mnemonic) (args : List (AsmKey × AsmValue)) : (asmCommand m args).mnemonic = m := by
  cases m <;> rfl

/-- Settles O6. -/
theorem assembledWordsWellFormed : Obligations.AssembledWordsWellFormed := by
  intro m args w h
  obtain ⟨hwf, rfl⟩ := eq_encode_of_assemble h
  exact ⟨asmCommand m args, decode_encode _, hwf, asmCommand_mnemonic m args⟩

/-- All that a line which assembles can be: a raw word, a command or a pseudo-command. -/
theorem assembleLine_cases {line : List Char} {w : Word} (h : assembleLine line = some w) :
    lineName line = ".word".toList ∨ (∃ m args, assemble m args = some w) ∨ (∃ p args, assemblePseudo p args = some w) := by
  unfold assembleLine at h
  split at h
  · exact .inl ‹_›
  · split at h
    · exact .inr (.inl ⟨_, _, h⟩)
    · exact .inr (.inr ⟨_, _, h⟩)
    · cases h

/-- Settles O7. -/
theorem assembledLinesWellFormed : Obligations.AssembledLinesWellFormed := by
  intro line w h
  obtain hraw | ⟨m, args, hcmd⟩ | ⟨p, args, hpseudo⟩ := assembleLine_cases h
  · exact .inl hraw
  · obtain ⟨hwf, rfl⟩ := eq_encode_of_assemble hcmd
    exact .inr ⟨_, decode_encode _, hwf⟩
  · obtain ⟨hwf, rfl⟩ := eq_encode_of_assemblePseudo hpseudo
    exact .inr ⟨_, decode_encode _, hwf⟩

end Sys2Proof.Proofs
end

section
/-! Runs over the listed events (`20_memory.md` R72), and the polls of RUN (`30_encoding.md` R99). -/

namespace Sys2Proof.Proofs
open Sys2Proof Sys2Proof.Machine

/-- A run with a host operation next performs it. -/
theorem run_host {s : State} {op : HostOp} {rest : List Event} (h : s.events = .host op :: rest) (n : Nat) :
    Host.Core.run core (n + 1) s = Host.Core.run core n (hostStep op { s with events := rest }) := by
  have hstep : core.step s = .next (hostStep op { s with events := rest }) := by
    simp only [core, step, h]
  simp only [Host.Core.run, hstep]

/-- A run with the engine next answers what the engine's turn answers. -/
theorem run_engine {s t : State} {rest : List Event} (h : s.events = .engine :: rest)
    (ht : engineStep { s with events := rest } = .next t) (n : Nat) :
    Host.Core.run core (n + 1) s = Host.Core.run core n t := by
  have hstep : core.step s = .next t := by
    simp only [core, step, h, ht]
  simp only [Host.Core.run, hstep]

/-- A run with a register read next hands the register's value to the host. -/
theorem run_hostRd {s : State} {r : Reg} {rest : List Event} (h : s.events = hostRd r :: rest) (n : Nat) :
    Host.Core.run core (n + 1) s =
      Host.Core.run core n { s with events := rest, reads := .reg r (readReg r s) :: s.reads } := by
  rw [run_host h, hostStep_regRead (accessedReg_regOffset r)]
  cases r <;> rfl

/-- A run with the issue of a command next, while BUSY = 0, issues it (`10_state.md` R26). -/
theorem run_hostIssue {s : State} {i : Instr} {rest : List Event} (hb : s.busy = false)
    (h : s.events = hostIssue i :: rest) (n : Nat) :
    Host.Core.run core (n + 1) s = Host.Core.run core n (State.issue (encode i) { s with events := rest }) := by
  rw [run_host h, hostStep_regWrite_of_idle (s := { s with events := rest }) hb .cmd]
  rfl

/-- Reads of STATUS change nothing that a later read of STATUS sees: `k` polls return the same word `k` times. -/
theorem run_polls (k n : Nat) {s : State} {rest : List Event}
    (h : s.events = List.replicate k (hostRd .status) ++ rest) :
    Host.Core.run core (k + n) s =
      Host.Core.run core n
        { s with events := rest, reads := List.replicate k (.reg .status (statusWord s)) ++ s.reads } := by
  induction k generalizing s with
  | zero =>
    obtain rfl : s.events = rest := h
    rw [Nat.zero_add]
    rfl
  | succ k ih =>
    rw [Nat.add_right_comm, run_hostRd (rest := List.replicate k (hostRd .status) ++ rest) h, ih rfl,
      List.replicate_succ', List.append_assoc]
    rfl

/-- STATUS of a command in flight (`10_state.md` R26, R35): BUSY alone. -/
theorem statusWord_issue (v : Word) (s : State) : statusWord (State.issue v s) = 1 :=
  BitVec.eq_of_toNat_eq (statusWord_toNat _)

/-- DONE is bit 1 of STATUS (`10_state.md` R35). -/
theorem statusWord_getLsbD_one (s : State) : (statusWord s).getLsbD 1 = s.done := by
  simp only [statusWord, BitVec.getLsbD_append]
  simp

theorem engineStep_of_busy {s : State} (hb : s.busy = true) : engineStep s = completeWord s.cmd s := if_pos hb

/-- POLL while a command is in flight: the polls return STATUS as it is, and the read after the completion DONE = 1. -/
theorem run_hostPoll {s : State} {k : Nat} (hb : s.busy = true) (h : s.events = hostPoll k) :
    ∃ t v, Host.Core.run core (k + 2) s = .next t ∧ t.events = [] ∧ t.busy = false ∧ v.getLsbD 1 = true ∧
      t.reads = .reg .status v :: (List.replicate k (.reg .status (statusWord s)) ++ s.reads) := by
  rw [run_polls k 2 h]
  generalize List.replicate k (ReadData.reg .status (statusWord s)) ++ s.reads = polled
  obtain ⟨code, n, m, mx, hdone⟩ := completeWord_eq_complete s.cmd { s with events := [hostRd .status], reads := polled }
  have hengine := (engineStep_of_busy (s := { s with events := [hostRd .status], reads := polled }) hb).trans hdone
  rw [run_engine rfl hengine, run_hostRd rfl]
  exact ⟨_, _, rfl, rfl, rfl, statusWord_getLsbD_one _, rfl⟩

/-- Settles O8: the issue, and then POLL on the command in flight. -/
theorem runPollsUntilDone : Obligations.RunPollsUntilDone := by
  intro s i k hb hev
  rw [run_hostIssue hb hev (k + 2)]
  simpa only [statusWord_issue, State.issue_reads] using
    run_hostPoll (s := State.issue (encode i) { s with events := hostPoll k }) rfl rfl

end Sys2Proof.Proofs
end

section
/-! ENDIAN (`40_endian.md` R111): an offset of the region holds what its mirrored offset held before, and mirroring within a
group twice is the identity. -/

namespace Sys2Proof.Proofs
open Sys2Proof Sys2Proof.Machine

/-- A command that fails no check succeeds. -/
theorem exec_eq_successState {i : Instr} {s : State} (h : firstFailing (checksOf i s) = none) :
    exec i s = .next (successState i s) := by
  rw [exec_eq_runCommand, runCommand_of_none h, bodyOf_eq_successState]

/-- The offset that offset `t` trades places with when every group of `g` bytes is reversed. -/
def mirrored (g t : Nat) : Nat := t / g * g + (g - 1 - t % g)

theorem reversedByte_eq_read_mirrored (m : Memory) (base g t : Nat) :
    reversedByte m base g t = Memory.read m (base + mirrored g t) := rfl

/-- Byte `j` of group `k` trades places with byte `g - 1 - j` of that group. -/
theorem mirrored_mul_add {g j : Nat} (hj : j < g) (k : Nat) : mirrored g (k * g + j) = k * g + (g - 1 - j) := by
  have hdiv : (k * g + j) / g = k := by
    rw [mul_comm, Nat.mul_add_div (Nat.zero_lt_of_lt hj), Nat.div_eq_of_lt hj, add_zero]
  rw [mirrored, hdiv, Nat.mul_add_mod', Nat.mod_eq_of_lt hj]

/-- Mirroring stays inside the group, so the mirrored offset mirrors back. -/
theorem mirrored_mirrored {g : Nat} (hg : 0 < g) (t : Nat) : mirrored g (mirrored g t) = t := by
  have hmod : t % g < g := Nat.mod_lt t hg
  calc mirrored g (t / g * g + (g - 1 - t % g))
      = t / g * g + (g - 1 - (g - 1 - t % g)) := mirrored_mul_add (by omega) _
    _ = t / g * g + t % g := by omega
    _ = t := Nat.div_add_mod' t g

/-- A region of whole groups is closed under mirroring. -/
theorem mirrored_lt {g n t : Nat} (hg : 0 < g) (hn : n % g = 0) (ht : t < n) : mirrored g t < n := by
  obtain ⟨k, rfl⟩ := Nat.dvd_of_mod_eq_zero hn
  have hgroup : (t / g + 1) * g ≤ g * k := by
    rw [Nat.mul_comm g k]
    exact Nat.mul_le_mul_right g (Nat.div_lt_of_lt_mul ht)
  rw [Nat.succ_mul] at hgroup
  rw [mirrored]
  omega

/-- After ENDIAN each offset of the region holds what the mirrored offset held before. -/
theorem read_successState_endian (group : BitVec 4) (s : State) {t : Nat} (ht : t < s.len.toNat - s.offset.toNat) :
    Memory.read (successState (.endian group) s).mem (s.src.toNat + s.offset.toNat + t) =
      Memory.read s.mem (s.src.toNat + s.offset.toNat + mirrored group.toNat t) := by
  rw [← reversedByte_eq_read_mirrored]
  refine (Memory.read_writeRange_inside _ s.mem _ t ?_).trans ?_
  · rwa [outData, reversedGroups_length]
  · simp [outData, reversedGroups]

/-- ENDIAN writes no operand register, so it is ready again after it succeeded. -/
theorem endianReady_successState {group : BitVec 4} {s : State} (h : endianReady group s) :
    endianReady group (successState (.endian group) s) := h

/-- Settles O24. -/
theorem endianReversesGroups : Obligations.EndianReversesGroups := by
  intro group s h
  have hnone : firstFailing (checksOf (.endian group) s) = none := (endianChecks_none_iff group s).mpr h
  refine ⟨_, exec_eq_successState hnone, completedOk_successState hnone, fun k j hj hin => ?_⟩
  rw [read_successState_endian group s hin, mirrored_mul_add hj]

/-- Settles O25: outside the region neither execution writes, and inside it the two mirrorings cancel. -/
theorem endianTwiceRestores : Obligations.EndianTwiceRestores := by
  intro group s h
  have hnone : firstFailing (checksOf (.endian group) s) = none := (endianChecks_none_iff group s).mpr h
  have hagain : firstFailing (checksOf (.endian group) (successState (.endian group) s)) = none :=
    (endianChecks_none_iff group _).mpr (endianReady_successState h)
  refine ⟨_, _, exec_eq_successState hnone, exec_eq_successState hagain, fun a => ?_⟩
  obtain ⟨hgroup, -, hwhole, -⟩ := h
  by_cases hout : a < s.src.toNat + s.offset.toNat ∨
      s.src.toNat + s.offset.toNat + (s.len.toNat - s.offset.toNat) ≤ a
  · obtain ⟨hframe, -⟩ := completedOk_successState hnone
    obtain ⟨hframe', -⟩ := completedOk_successState hagain
    exact (hframe' a hout).trans (hframe a hout)
  · obtain ⟨t, rfl⟩ : ∃ t, a = s.src.toNat + s.offset.toNat + t := Nat.exists_eq_add_of_le (by omega)
    have ht : t < s.len.toNat - s.offset.toNat := by omega
    have hpos : 0 < group.toNat := Nat.pos_of_ne_zero fun h0 => hgroup (BitVec.eq_of_toNat_eq h0)
    calc Memory.read (successState (.endian group) (successState (.endian group) s)).mem _
        = Memory.read (successState (.endian group) s).mem
            (s.src.toNat + s.offset.toNat + mirrored group.toNat t) :=
          read_successState_endian group (successState (.endian group) s) ht
      _ = Memory.read s.mem (s.src.toNat + s.offset.toNat + mirrored group.toNat (mirrored group.toNat t)) :=
          read_successState_endian group s (mirrored_lt hpos hwhole ht)
      _ = Memory.read s.mem (s.src.toNat + s.offset.toNat + t) := by rw [mirrored_mirrored hpos]

end Sys2Proof.Proofs
end

section
/-! Samples as bit pictures (`41_bitunpack.md` R120): each packing convention reads the bits its picture names, so a sample
has as many bits as its picture, and no padding nibble (R123). -/

namespace Sys2Proof.Proofs
open Sys2Proof Sys2Proof.Machine Sys2Proof.Claims

theorem picture12High_toNat (b0 b1 : Byte) :
    (picture12High b0 b1).toNat = (b0.toNat &&& 0x0F) <<< 8 ||| b1.toNat := by
  have hmask : b0.toNat &&& 0x0F = b0.toNat % 2 ^ 4 := Nat.and_two_pow_sub_one_eq_mod b0.toNat 4
  rw [picture12High, BitVec.toNat_append, BitVec.extractLsb'_toNat, Nat.shiftRight_zero, hmask]

theorem picture12A_toNat (b0 b1 : Byte) : (picture12A b0 b1).toNat = b0.toNat <<< 4 ||| b1.toNat >>> 4 := by
  have hhigh : b1.toNat >>> 4 < 2 ^ 4 := by
    rw [Nat.shiftRight_eq_div_pow]
    exact Nat.div_lt_of_lt_mul b1.isLt
  rw [picture12A, BitVec.toNat_append, BitVec.extractLsb'_toNat, Nat.mod_eq_of_lt hhigh]

/-- Sample B has its high nibble where a high-zero container has its own. -/
theorem picture12B_eq_picture12High (b1 b2 : Byte) : picture12B b1 b2 = picture12High b1 b2 := rfl

theorem picture16_toNat (b0 b1 : Byte) : (picture16 b0 b1).toNat = b0.toNat * 256 + b1.toNat := by
  rw [picture16, BitVec.toNat_append, ← Nat.shiftLeft_add_eq_or_of_lt b1.isLt, Nat.shiftLeft_eq]

section
variable (m : Memory) (src i : Nat)

theorem sample_depth8 (hz : Bool) : sample m src .depth8 hz i = (Memory.read m (src + i)).toNat := rfl

theorem sample_depth12_highZero :
    sample m src .depth12 true i =
      (picture12High (Memory.read m (src + 2 * i)) (Memory.read m (src + 2 * i + 1))).toNat :=
  (picture12High_toNat _ _).symm

theorem sample_depth12_even (h : i % 2 = 0) :
    sample m src .depth12 false i =
      (picture12A (Memory.read m (src + 3 * (i / 2))) (Memory.read m (src + 3 * (i / 2) + 1))).toNat :=
  (if_pos h).trans (picture12A_toNat _ _).symm

theorem sample_depth12_odd (h : i % 2 = 1) :
    sample m src .depth12 false i =
      (picture12B (Memory.read m (src + 3 * (i / 2) + 1)) (Memory.read m (src + 3 * (i / 2) + 2))).toNat := by
  rw [picture12B_eq_picture12High, picture12High_toNat]
  exact if_neg (by omega)

theorem sample_depth16 (hz : Bool) :
    sample m src .depth16 hz i =
      (picture16 (Memory.read m (src + 2 * i)) (Memory.read m (src + 2 * i + 1))).toNat :=
  (picture16_toNat _ _).symm

/-- `Sample(i) < 2^bpp` (`41_bitunpack.md` R120): the picture has bpp bits. -/
theorem sample_lt_two_pow (bpp : Bpp) (hz : Bool) : sample m src bpp hz i < 2 ^ bppBits bpp := by
  cases bpp with
  | depth8 => exact BitVec.isLt _
  | depth12 =>
    cases hz with
    | true => exact sample_depth12_highZero m src i ▸ BitVec.isLt _
    | false =>
      obtain h | h := Nat.mod_two_eq_zero_or_one i
      · exact sample_depth12_even m src i h ▸ BitVec.isLt _
      · exact sample_depth12_odd m src i h ▸ BitVec.isLt _
  | depth16 => exact sample_depth16 m src i hz ▸ BitVec.isLt _
  | noDepth => exact Nat.one_pos

end

/-- Settles O26. -/
theorem samplesMatchBitPictures : Obligations.SamplesMatchBitPictures := fun m src i hz =>
  ⟨sample_depth8 m src i hz, sample_depth12_highZero m src i, sample_depth12_even m src i, sample_depth12_odd m src i,
    sample_depth16 m src i false, fun bpp _ => sample_lt_two_pow m src i bpp hz, rfl, rfl, rfl, rfl⟩

/-- Settles O27: the picture of a high-zero container has no bit of the padding nibble. -/
theorem paddingNibbleIgnored : Obligations.PaddingNibbleIgnored := by
  intro m n src i hnibble hlow
  rw [sample_depth12_highZero, sample_depth12_highZero, picture12High, picture12High, hnibble, hlow]

end Sys2Proof.Proofs
end

section
/-! UNPACK8, UNPACK16, STRETCH16 and WINDOW8 below mode 5 (`41_bitunpack.md` R130 to R146): the destination holds one byte
or one word for each sample, all read before the first write (`10_state.md` R42). -/

namespace Sys2Proof.Proofs
open Sys2Proof Sys2Proof.Machine

/-! What the destination holds. -/

/-- After a success, place `k` of the destination holds byte `k` of the stored data. -/
theorem read_successState {i : Instr} {s : State} {k : Nat} {b : Byte} (h : (outData i s)[k]? = some b) :
    Memory.read (successState i s).mem (outBase i s + k) = b := by
  obtain ⟨hk, rfl⟩ := List.getElem?_eq_some_iff.mp h
  exact Memory.read_writeRange_inside _ s.mem _ k hk

/-- Two successes that store the same data leave the same bytes, each at its own destination. -/
theorem read_successState_congr {i j : Instr} {s t : State} {k : Nat} (hdata : outData i s = outData j t)
    (hk : k < (outData j t).length) :
    Memory.read (successState i s).mem (outBase i s + k) = Memory.read (successState j t).mem (outBase j t + k) := by
  have hbyte : (outData j t)[k]? = some (outData j t)[k] := List.getElem?_eq_getElem hk
  exact (read_successState (by rw [hdata, hbyte])).trans (read_successState hbyte).symm

/-- A command that stores a byte for each value. -/
theorem read_successState_byteList {i : Instr} {s : State} {vs : List Nat} {k v : Nat}
    (hdata : outData i s = byteList vs) (hv : vs[k]? = some v) :
    Memory.read (successState i s).mem (outBase i s + k) = BitVec.ofNat 8 v :=
  read_successState (by rw [hdata, byteList, List.getElem?_map, hv, Option.map_some])

/-- `wordBytes` are the halves of the word, high byte first or last by WORD_ORDER. -/
theorem holdsWord_of_wordBytes {o : WordOrder} {m : Memory} {a v : Nat}
    (h : ∀ j b, (wordBytes o v)[j]? = some b → Memory.read m (a + j) = b) : holdsWord o m a (BitVec.ofNat 16 v) := by
  have hhigh : (BitVec.ofNat 16 v).extractLsb' 8 8 = BitVec.ofNat 8 (v >>> 8) :=
    BitVec.eq_of_toNat_eq (by
      rw [BitVec.extractLsb'_toNat, BitVec.toNat_ofNat, BitVec.toNat_ofNat, Nat.shiftRight_eq_div_pow,
        Nat.shiftRight_eq_div_pow]
      omega)
  have hlow : (BitVec.ofNat 16 v).extractLsb' 0 8 = BitVec.ofNat 8 v :=
    BitVec.eq_of_toNat_eq (by simp)
  cases o with
  | be => exact ⟨hhigh ▸ h 0 _ rfl, hlow ▸ h 1 _ rfl⟩
  | le => exact ⟨hlow ▸ h 0 _ rfl, hhigh ▸ h 1 _ rfl⟩

/-- A command that stores a word for each value. -/
theorem holdsWord_successState {i : Instr} {s : State} {o : WordOrder} {ws : List Nat} {k v : Nat}
    (hdata : outData i s = wordListBytes o ws) (hv : ws[k]? = some v) :
    holdsWord o (successState i s).mem (outBase i s + 2 * k) (BitVec.ofNat 16 v) := by
  obtain ⟨hk, rfl⟩ := List.getElem?_eq_some_iff.mp hv
  refine holdsWord_of_wordBytes fun j b hb => ?_
  have hj : j < 2 := wordBytes_length o ws[k] ▸ (List.getElem?_eq_some_iff.mp hb).1
  rw [add_assoc]
  exact read_successState (by rw [hdata, wordListBytes_getElem? o ws k j hk hj, hb])

theorem map_samples_getElem? (f : Nat → Nat) (bpp : Bpp) (hz : Bool) {ch : BitVec 2} {s : State} {k : Nat}
    (hk : k < sampleCount ch s) :
    ((samples bpp hz ch s).map f)[k]? = some (f (sample s.mem s.src.toNat bpp hz k)) := by
  simp [samples, hk]

/-! What each command makes of a sample. -/

theorem ne_noDepth_of_unpackDepthLegal {bpp : Bpp} {hz : Bool} (h : unpackDepthLegal bpp hz = true) : bpp ≠ .noDepth := by
  rintro rfl
  obtain ⟨hmem, -⟩ := (unpackDepthLegal_iff _ _).mp h
  exact absurd hmem (by decide)

theorem highByte_eq_div {bpp : Bpp} (hbpp : bpp ≠ .noDepth) (x : Nat) : highByte bpp x = x / 2 ^ (bppBits bpp - 8) := by
  cases bpp with
  | depth8 => exact (Nat.div_one x).symm
  | depth12 => exact Nat.shiftRight_eq_div_pow x 4
  | depth16 => exact Nat.shiftRight_eq_div_pow x 8
  | noDepth => exact absurd rfl hbpp

/-- The high byte of a sample is a byte. -/
theorem highByte_lt {bpp : Bpp} {x : Nat} (hx : x < 2 ^ bppBits bpp) : highByte bpp x < 2 ^ 8 := by
  cases bpp with
  | depth8 => exact hx
  | depth12 | depth16 =>
    simp only [bppBits] at hx
    simp only [highByte, Nat.shiftRight_eq_div_pow]
    omega
  | noDepth => exact Nat.two_pow_pos 8

theorem widen_eq_mul (e : Ext8To16) (bpp : Bpp) (x : Nat) :
    widen e bpp x = x * if bpp = .depth8 ∧ e = .dup then 257 else 1 := by
  cases bpp with
  | depth8 => cases e <;> simp [widen]
  | depth12 | depth16 | noDepth => simp [widen]

/-- `x * 257` repeats a byte, so it is still a word. -/
theorem widen_lt (e : Ext8To16) {bpp : Bpp} {x : Nat} (hx : x < 2 ^ bppBits bpp) : widen e bpp x < 2 ^ 16 := by
  rw [widen_eq_mul]
  cases bpp with
  | depth8 =>
    simp only [bppBits] at hx
    split <;> omega
  | depth12 | depth16 | noDepth =>
    simp only [bppBits] at hx
    rw [if_neg (by simp)]
    omega

theorem stretch_eq_mul {bpp : Bpp} (hbpp : bpp ≠ .noDepth) (x : Nat) : stretch bpp x = x * 2 ^ (16 - bppBits bpp) := by
  cases bpp with
  | depth8 | depth12 => rfl
  | depth16 => exact (Nat.mul_one x).symm
  | noDepth => exact absurd rfl hbpp

theorem stretch_lt {bpp : Bpp} {x : Nat} (hx : x < 2 ^ bppBits bpp) : stretch bpp x < 2 ^ 16 := by
  cases bpp with
  | depth8 | depth12 | depth16 | noDepth =>
    simp only [bppBits] at hx
    simp only [stretch]
    omega

/-- Shifting a `w`-bit value and masking a byte of it takes 8 of its bits. -/
theorem ofNat_shiftRight_and_eq_extractLsb' {w x : Nat} (hx : x < 2 ^ w) (start : Nat) :
    BitVec.ofNat 8 (x >>> start &&& 0xFF) = (BitVec.ofNat w x).extractLsb' start 8 := by
  have hmask : x >>> start &&& 0xFF = x >>> start % 2 ^ 8 := Nat.and_two_pow_sub_one_eq_mod _ 8
  apply BitVec.eq_of_toNat_eq
  rw [BitVec.toNat_ofNat, hmask, Nat.mod_mod, BitVec.extractLsb'_toNat, BitVec.toNat_ofNat, Nat.mod_eq_of_lt hx]

/-! The commands. -/

/-- The byte UNPACK8 leaves for a sample. -/
theorem read_unpack8 (bpp : Bpp) (hz : Bool) {ch : BitVec 2} {s : State} {k : Nat} (hk : k < sampleCount ch s) :
    Memory.read (successState (.unpack8 bpp hz ch) s).mem (s.dst.toNat + k) =
      BitVec.ofNat 8 (highByte bpp (sample s.mem s.src.toNat bpp hz k)) :=
  read_successState_byteList rfl (map_samples_getElem? (highByte bpp) bpp hz hk)

/-- The word UNPACK16 leaves for a sample. -/
theorem holdsWord_unpack16 (bpp : Bpp) (hz : Bool) {ch : BitVec 2} {s : State} {k : Nat} (hk : k < sampleCount ch s) :
    holdsWord s.params.wordOrder (successState (.unpack16 bpp hz ch) s).mem (s.dst.toNat + 2 * k)
      (BitVec.ofNat 16 (widen s.params.ext8To16 bpp (sample s.mem s.src.toNat bpp hz k))) :=
  holdsWord_successState rfl (map_samples_getElem? (widen s.params.ext8To16 bpp) bpp hz hk)

/-- The word STRETCH16 leaves for a sample. -/
theorem holdsWord_stretch16 (bpp : Bpp) (hz : Bool) {ch : BitVec 2} {s : State} {k : Nat} (hk : k < sampleCount ch s) :
    holdsWord s.params.wordOrder (successState (.stretch16 bpp hz ch) s).mem (s.dst.toNat + 2 * k)
      (BitVec.ofNat 16 (stretch bpp (sample s.mem s.src.toNat bpp hz k))) :=
  holdsWord_successState rfl (map_samples_getElem? (stretch bpp) bpp hz hk)

theorem outData_window8 (bpp : Bpp) (hz : Bool) {mode : BitVec 3} (hmode : mode.toNat ≤ 4) (ch : BitVec 2) (s : State) :
    outData (.window8 bpp hz mode ch) s = byteList ((samples bpp hz ch s).map (window s.params bpp mode.toNat)) :=
  if_pos hmode

/-- The byte WINDOW8 leaves for a sample below mode 5. -/
theorem read_window8 (bpp : Bpp) (hz : Bool) {mode : BitVec 3} (hmode : mode.toNat ≤ 4) {ch : BitVec 2} {s : State}
    {k : Nat} (hk : k < sampleCount ch s) :
    Memory.read (successState (.window8 bpp hz mode ch) s).mem (s.dst.toNat + k) =
      BitVec.ofNat 8 (window s.params bpp mode.toNat (sample s.mem s.src.toNat bpp hz k)) :=
  read_successState_byteList (outData_window8 bpp hz hmode ch s)
    (map_samples_getElem? (window s.params bpp mode.toNat) bpp hz hk)

/-- Settles O28. -/
theorem unpack8WritesHighBytes : Obligations.Unpack8WritesHighBytes := by
  intro bpp hz ch s hready
  have hnone : firstFailing (checksOf (.unpack8 bpp hz ch) s) = none := (packedChecks_none_iff ..).mpr hready
  obtain ⟨hbpp, -⟩ := hready
  refine ⟨_, exec_eq_successState hnone, completedOk_successState hnone, fun i hi => ?_⟩
  rw [read_unpack8 bpp hz hi, BitVec.toNat_ofNat, Nat.mod_eq_of_lt (highByte_lt (sample_lt_two_pow ..)),
    highByte_eq_div (ne_noDepth_of_unpackDepthLegal hbpp)]

/-- Settles O29. -/
theorem unpack16WritesWords : Obligations.Unpack16WritesWords := by
  intro bpp hz ch s hready
  have hnone : firstFailing (checksOf (.unpack16 bpp hz ch) s) = none := (packedChecks_none_iff ..).mpr hready
  refine ⟨_, exec_eq_successState hnone, completedOk_successState hnone, fun i hi =>
    ⟨_, holdsWord_unpack16 bpp hz hi, ?_⟩⟩
  rw [BitVec.toNat_ofNat, Nat.mod_eq_of_lt (widen_lt _ (sample_lt_two_pow ..)), widen_eq_mul]

/-- Settles O30. -/
theorem stretch16WritesScaledWords : Obligations.Stretch16WritesScaledWords := by
  intro bpp hz ch s hready
  have hnone : firstFailing (checksOf (.stretch16 bpp hz ch) s) = none := (packedChecks_none_iff ..).mpr hready
  obtain ⟨hbpp, -⟩ := hready
  refine ⟨_, exec_eq_successState hnone, completedOk_successState hnone, fun i hi =>
    ⟨_, holdsWord_stretch16 bpp hz hi, ?_⟩⟩
  rw [BitVec.toNat_ofNat, Nat.mod_eq_of_lt (stretch_lt (sample_lt_two_pow ..)),
    stretch_eq_mul (ne_noDepth_of_unpackDepthLegal hbpp)]

/-- Settles O31. -/
theorem window8WritesWindows : Obligations.Window8WritesWindows := by
  intro bpp hz mode ch s hmode hready
  have hnone : firstFailing (checksOf (.window8 bpp hz mode ch) s) = none :=
    (window8Checks_none_iff ..).mpr ⟨by omega, hready⟩
  have hmaxval : outMaxval (.window8 bpp hz mode ch) s = s.maxval := if_pos hmode
  refine ⟨_, exec_eq_successState hnone, hmaxval ▸ completedOk_successState hnone, fun i hi => ?_⟩
  have hread := read_window8 bpp hz hmode hi
  have hlt := sample_lt_two_pow s.mem s.src.toNat i bpp hz
  refine ⟨?_, ?_, ?_⟩ <;> rintro rfl
  · rw [hread, BitVec.toNat_ofNat]
    exact Nat.mod_eq_of_lt hlt
  · exact hread.trans (ofNat_shiftRight_and_eq_extractLsb' hlt _)
  · exact hread.trans (ofNat_shiftRight_and_eq_extractLsb' hlt _)

/-- Settles O33: the high byte of an 8-bit sample is the source byte as it was before the command. -/
theorem unpack8CopiesBytes : Obligations.Unpack8CopiesBytes := by
  intro hz ch s hready
  have hnone : firstFailing (checksOf (.unpack8 .depth8 hz ch) s) = none := (packedChecks_none_iff ..).mpr hready
  refine ⟨_, exec_eq_successState hnone, fun i hi => ?_⟩
  rw [read_unpack8 .depth8 hz hi, highByte, sample_depth8, BitVec.ofNat_toNat, BitVec.setWidth_eq]

end Sys2Proof.Proofs
end

section
/-! WINDOW8 with MODE 5 (`41_bitunpack.md` R147): Normalize of the samples, which a common factor does not change
(R150 law 3). -/

namespace Sys2Proof.Proofs
open Sys2Proof Sys2Proof.Machine

/-! The maximum of pass 1 (`42_range_reduce.md` R161). -/

/-- Pass 1 finds the maximum of a list that is not empty. -/
theorem max?_eq_maxSample {xs : List Nat} (h : xs ≠ []) : xs.max? = some (maxSample xs) := by
  have hstep : (fun mx x : Nat => if x > mx then x else mx) = max := by
    funext mx x
    split <;> omega
  cases xs with
  | nil => exact absurd rfl h
  | cons x xs => rw [List.max?_cons', maxSample, hstep]

theorem maxSample_mem {xs : List Nat} (h : xs ≠ []) : maxSample xs ∈ xs :=
  (List.max?_eq_some_iff.mp (max?_eq_maxSample h)).1

theorem le_maxSample {xs : List Nat} {x : Nat} (hx : x ∈ xs) : x ≤ maxSample xs :=
  (List.max?_eq_some_iff.mp (max?_eq_maxSample (List.ne_nil_of_mem hx))).2 x hx

/-- The maximum is the one member that bounds every member. -/
theorem maxSample_eq_of_mem {xs : List Nat} {mx : Nat} (hmem : mx ∈ xs) (hle : ∀ x ∈ xs, x ≤ mx) : maxSample xs = mx :=
  Nat.le_antisymm (hle _ (maxSample_mem (List.ne_nil_of_mem hmem))) (le_maxSample hmem)

/-- The maximum of scaled values is the scaled maximum. -/
theorem maxSample_map_mul (xs : List Nat) (c : Nat) : maxSample (xs.map (· * c)) = maxSample xs * c := by
  by_cases h : xs = []
  · subst h
    exact (Nat.zero_mul c).symm
  · refine maxSample_eq_of_mem (List.mem_map_of_mem (maxSample_mem h)) fun y hy => ?_
    obtain ⟨x, hx, rfl⟩ := List.mem_map.mp hy
    exact Nat.mul_le_mul_right c (le_maxSample hx)

/-! Scaling by the maximum. -/

theorem scaleSample_of_ne_zero (r : NormRound) {mx : Nat} (hmx : mx ≠ 0) (x : Nat) :
    scaleSample r mx x = roundDiv r (x * 255) mx := if_neg hmx

/-- A common factor of the sample and the maximum cancels in RoundDiv. -/
theorem roundDiv_mul_right (r : NormRound) (a b : Nat) {c : Nat} (hc : 0 < c) :
    roundDiv r (a * c) (b * c) = roundDiv r a b := by
  cases r with
  | halfUp =>
    rw [roundDiv, roundDiv, ← Nat.mul_assoc, ← Nat.mul_assoc, ← Nat.add_mul, Nat.mul_div_mul_right _ _ hc]
  | trunc => exact Nat.mul_div_mul_right a b hc

theorem scaleSample_mul_right (r : NormRound) (mx x : Nat) {c : Nat} (hc : 0 < c) :
    scaleSample r (mx * c) (x * c) = scaleSample r mx x := by
  by_cases hmx : mx = 0
  · simp [scaleSample, hmx]
  · have hmxc : mx * c ≠ 0 := Nat.mul_ne_zero hmx hc.ne'
    rw [scaleSample_of_ne_zero r hmx, scaleSample_of_ne_zero r hmxc, Nat.mul_right_comm, roundDiv_mul_right r _ _ hc]

/-- `41_bitunpack.md` R150 law 3: scaling every sample by one factor does not change Normalize. -/
theorem normalize_map_mul (r : NormRound) (xs : List Nat) {c : Nat} (hc : 0 < c) :
    normalize r (xs.map (· * c)) = normalize r xs := by
  rw [Machine.normalize, Machine.normalize, maxSample_map_mul, List.map_map]
  exact List.map_congr_left fun x _ => scaleSample_mul_right r _ x hc

/-- A sample is at most the maximum, so it scales to a byte. -/
theorem scaleSample_lt (r : NormRound) {mx x : Nat} (hx : x ≤ mx) : scaleSample r mx x < 2 ^ 8 := by
  rw [scaleSample]
  split
  · exact Nat.two_pow_pos 8
  · cases r with
    | halfUp | trunc =>
      refine Nat.div_lt_of_lt_mul ?_
      omega

/-- Settles O36: at full scale the scaled sample is x / 16.06 or x / 257, and the high byte x / 16 or x / 256. -/
theorem fullScaleNormalizeNearHighByte : Obligations.FullScaleNormalizeNearHighByte := by
  intro bits x hbits hx
  have hmax : 2 ^ bits - 1 ≠ 0 := by
    obtain rfl | rfl := hbits
    · decide
    · decide
  rw [scaleSample_of_ne_zero _ hmax, scaleSample_of_ne_zero _ hmax, roundDiv, roundDiv]
  obtain rfl | rfl := hbits
  · omega
  · omega

/-! The command. -/

theorem sampleCount_pos {ch : BitVec 2} {s : State} (hch : channelsLegal ch = true) (hw : s.width ≠ 0)
    (hh : s.height ≠ 0) : 0 < sampleCount ch s := by
  have hchannels : 0 < ch.toNat := by
    have := (channelsLegal_iff ch).mp hch
    omega
  have hwidth : 0 < s.width.toNat := Nat.pos_of_ne_zero fun h => hw ((half_toNat_eq_zero_iff _).mp h)
  have hheight : 0 < s.height.toNat := Nat.pos_of_ne_zero fun h => hh ((half_toNat_eq_zero_iff _).mp h)
  exact Nat.mul_pos (Nat.mul_pos hwidth hheight) hchannels

theorem mem_samples_iff {bpp : Bpp} {hz : Bool} {ch : BitVec 2} {s : State} {x : Nat} :
    x ∈ samples bpp hz ch s ↔ ∃ i, i < sampleCount ch s ∧ sample s.mem s.src.toNat bpp hz i = x := by
  simp [samples]

theorem bppBits_le (bpp : Bpp) : bppBits bpp ≤ 16 := by
  cases bpp <;> decide

theorem outData_window8_mode5 (bpp : Bpp) (hz : Bool) (ch : BitVec 2) (s : State) :
    outData (.window8 bpp hz 5 ch) s = byteList (normalize s.params.normRound (samples bpp hz ch s)) := rfl

/-- The byte WINDOW8 leaves for a sample in mode 5. -/
theorem read_window8_mode5 (bpp : Bpp) (hz : Bool) {ch : BitVec 2} {s : State} {k : Nat} (hk : k < sampleCount ch s) :
    Memory.read (successState (.window8 bpp hz 5 ch) s).mem (s.dst.toNat + k) =
      BitVec.ofNat 8 (scaleSample s.params.normRound (maxSample (samples bpp hz ch s))
        (sample s.mem s.src.toNat bpp hz k)) :=
  read_successState_byteList (outData_window8_mode5 bpp hz ch s) (map_samples_getElem? _ bpp hz hk)

/-- Settles O32: the maximum is a sample, so it fits MAXVAL and bounds the sample that each byte scales. -/
theorem window8Mode5Normalizes : Obligations.Window8Mode5Normalizes := by
  intro bpp hz ch s hready
  have hnone : firstFailing (checksOf (.window8 bpp hz 5 ch) s) = none :=
    (window8Checks_none_iff ..).mpr ⟨by decide, hready⟩
  obtain ⟨-, hch, hwidth, hheight, -⟩ := hready
  have hnonempty : samples bpp hz ch s ≠ [] :=
    List.ne_nil_of_length_pos (by rw [samples_length]; exact sampleCount_pos hch hwidth hheight)
  obtain ⟨i, hi, hmax⟩ := mem_samples_iff.mp (maxSample_mem hnonempty)
  have hle : ∀ k, k < sampleCount ch s → sample s.mem s.src.toNat bpp hz k ≤ maxSample (samples bpp hz ch s) :=
    fun k hk => le_maxSample (mem_samples_iff.mpr ⟨k, hk, rfl⟩)
  have hfits : maxSample (samples bpp hz ch s) < 2 ^ 16 :=
    hmax ▸ (sample_lt_two_pow ..).trans_le (Nat.pow_le_pow_right (by decide) (bppBits_le bpp))
  refine ⟨_, _, exec_eq_successState hnone, ⟨i, hi, hmax⟩, hle, ?_, completedOk_successState hnone, fun k hk => ?_⟩
  · exact (BitVec.toNat_ofNat _ _).trans (Nat.mod_eq_of_lt hfits)
  · rw [read_window8_mode5 bpp hz hk, BitVec.toNat_ofNat, Nat.mod_eq_of_lt (scaleSample_lt _ (hle k hk)), scaleSample]

/-! STRETCH16 and then NORM8 (`41_bitunpack.md` R150 law 3). -/

/-- The host points NORM8 at the words a command wrote: SRC, DST and LEN written between the two commands. -/
def retarget (s : State) (src dst len : Word) : State := { s with src := src, dst := dst, len := len }

/-- NORM8 finds the stretched samples where STRETCH16 wrote them. -/
theorem elements_after_stretch16 (bpp : Bpp) (hz : Bool) (ch : BitVec 2) (s : State) (dst len : Word) :
    elements .depth16 (sampleCount ch s) (retarget (successState (.stretch16 bpp hz ch) s) s.dst dst len) =
      (samples bpp hz ch s).map (stretch bpp) := by
  rw [samples, List.map_map]
  refine List.map_congr_left fun k hk => ?_
  have hword := holdsWord_stretch16 bpp hz (List.mem_range.mp hk)
  exact (rdW_of_holdsWord hword).trans
    ((BitVec.toNat_ofNat _ _).trans (Nat.mod_eq_of_lt (stretch_lt (sample_lt_two_pow ..))))

theorem map_stretch_eq_map_mul {bpp : Bpp} (hbpp : bpp ≠ .noDepth) (xs : List Nat) :
    xs.map (stretch bpp) = xs.map (· * 2 ^ (16 - bppBits bpp)) :=
  List.map_congr_left fun x _ => stretch_eq_mul hbpp x

/-- Both ways store Normalize of the original samples. -/
theorem outData_norm8_after_stretch16 {bpp : Bpp} (hbpp : bpp ≠ .noDepth) (hz : Bool) (ch : BitVec 2) (s : State)
    (dst len : Word) :
    outData (.norm8 .depth16 ch) (retarget (successState (.stretch16 bpp hz ch) s) s.dst dst len) =
      outData (.window8 bpp hz 5 ch) { s with dst := dst } :=
  congrArg byteList <| calc
    normalize s.params.normRound
        (elements .depth16 (sampleCount ch s) (retarget (successState (.stretch16 bpp hz ch) s) s.dst dst len))
      = normalize s.params.normRound ((samples bpp hz ch s).map (· * 2 ^ (16 - bppBits bpp))) := by
        rw [elements_after_stretch16, map_stretch_eq_map_mul hbpp]
    _ = normalize s.params.normRound (samples bpp hz ch s) := normalize_map_mul _ _ (Nat.two_pow_pos _)

/-- The stretched words are a source that NORM8 accepts. -/
theorem norm8Ready_after_stretch16 {bpp : Bpp} {hz : Bool} {ch : BitVec 2} {s : State} {d : Word}
    (hready : packedReady bpp hz ch (2 * sampleCount ch s) s) (hlen : 2 * sampleCount ch s < 2 ^ 32)
    (hd : d.toNat + sampleCount ch s ≤ s.params.memSize) :
    norm8Ready .depth16 ch (retarget (successState (.stretch16 bpp hz ch) s) s.dst d
      (BitVec.ofNat 32 (2 * sampleCount ch s))) := by
  obtain ⟨-, hch, hwidth, hheight, -, -, -, hdst⟩ := hready
  have hlenNat : (BitVec.ofNat 32 (2 * sampleCount ch s)).toNat = 2 * sampleCount ch s :=
    (BitVec.toNat_ofNat _ _).trans (Nat.mod_eq_of_lt hlen)
  have hbytes : 2 * sampleCount ch s = sampleCount ch s * 16 / 8 := by omega
  exact ⟨rfl, hch, hwidth, hheight, hlenNat.trans hbytes, hlenNat.symm ▸ hdst, hd⟩

/-- Settles O35: the two destinations are written with the same bytes. -/
theorem stretchThenNormalizeIsNormalize : Obligations.StretchThenNormalizeIsNormalize := by
  intro bpp hz ch s d hbpp hready hlen hd
  have hdepth : bpp ≠ .noDepth := by
    rintro rfl
    exact absurd hbpp (by decide)
  have hstretch : firstFailing (checksOf (.stretch16 bpp hz ch) s) = none := (packedChecks_none_iff ..).mpr hready
  have hnorm := (norm8Checks_none_iff ..).mpr (norm8Ready_after_stretch16 hready hlen hd)
  have hwindow : firstFailing (checksOf (.window8 bpp hz 5 ch) { s with dst := d }) = none := by
    obtain ⟨hlegal, hch, hwidth, hheight, hsrcLen, hstride, hsrc, -⟩ := hready
    exact (window8Checks_none_iff ..).mpr ⟨by decide, hlegal, hch, hwidth, hheight, hsrcLen, hstride, hsrc, hd⟩
  refine ⟨_, _, _, exec_eq_successState hstretch, exec_eq_successState (i := .norm8 .depth16 ch) hnorm,
    exec_eq_successState hwindow, rfl, rfl, fun k hk => ?_⟩
  refine read_successState_congr (outData_norm8_after_stretch16 hdepth hz ch s d _) ?_
  exact (outData_length hwindow).symm ▸ hk

end Sys2Proof.Proofs
end

section
/-! Two laws of `41_bitunpack.md` R150: UNPACK16 of high-zero data (law 2), and WINDOW8 with MODE 0 against UNPACK8
(law 4). -/

namespace Sys2Proof.Proofs
open Sys2Proof Sys2Proof.Machine Sys2Proof.Claims

/-! UNPACK16 of high-zero data. -/

/-- The word of a high-zero container: its picture under a zero nibble. -/
def highZeroWord (b0 b1 : Byte) : Half := 0#4 ++ picture12High b0 b1

theorem ofNat_picture12High (b0 b1 : Byte) : BitVec.ofNat 16 (picture12High b0 b1).toNat = highZeroWord b0 b1 := by
  have hlt : (picture12High b0 b1).toNat < 2 ^ 16 := (BitVec.isLt _).trans (by decide)
  apply BitVec.eq_of_toNat_eq
  rw [BitVec.toNat_ofNat, Nat.mod_eq_of_lt hlt, highZeroWord, BitVec.toNat_append]
  simp

/-- The same word byte by byte: the container's bytes with the padding nibble cleared. -/
theorem highZeroWord_eq_bytes (b0 b1 : Byte) : highZeroWord b0 b1 = (0#4 ++ b0.extractLsb' 0 4) ++ b1 := by
  apply BitVec.eq_of_toNat_eq
  rw [highZeroWord, picture12High, BitVec.toNat_append, BitVec.toNat_append, BitVec.toNat_append, BitVec.toNat_append]
  simp

theorem highZeroWord_low12 (b0 b1 : Byte) : (highZeroWord b0 b1).extractLsb' 0 12 = picture12High b0 b1 :=
  BitVec.extractLsb'_append_eq_right

theorem highZeroWord_nibble (b0 b1 : Byte) : (highZeroWord b0 b1).extractLsb' 12 4 = 0 :=
  BitVec.extractLsb'_append_eq_left

theorem highZeroWord_lowByte (b0 b1 : Byte) : (highZeroWord b0 b1).extractLsb' 0 8 = b1 :=
  highZeroWord_eq_bytes b0 b1 ▸ BitVec.extractLsb'_append_eq_right

/-- The high byte of the word is the container's first byte exactly when the padding nibble is 0. -/
theorem highZeroWord_highByte_eq_iff (b0 b1 : Byte) :
    (highZeroWord b0 b1).extractLsb' 8 8 = b0 ↔ b0.extractLsb' 4 4 = 0 := by
  have hbyte : (highZeroWord b0 b1).extractLsb' 8 8 = 0#4 ++ b0.extractLsb' 0 4 :=
    highZeroWord_eq_bytes b0 b1 ▸ BitVec.extractLsb'_append_eq_left
  rw [hbyte]
  clear hbyte
  revert b0
  decide

/-- The word UNPACK16 leaves for a high-zero container. -/
theorem holdsWord_unpack16_highZero {ch : BitVec 2} {s : State} {k : Nat} (hk : k < sampleCount ch s) :
    holdsWord s.params.wordOrder (successState (.unpack16 .depth12 true ch) s).mem (s.dst.toNat + 2 * k)
      (highZeroWord (Memory.read s.mem (s.src.toNat + 2 * k)) (Memory.read s.mem (s.src.toNat + 2 * k + 1))) := by
  rw [← ofNat_picture12High, ← sample_depth12_highZero]
  exact holdsWord_unpack16 .depth12 true hk

/-- The bytes of `n` words are those at the even places and those at the odd ones. -/
theorem forall_lt_two_mul_iff {p : Nat → Prop} {n : Nat} :
    (∀ k, k < 2 * n → p k) ↔ ∀ i, i < n → p (2 * i) ∧ p (2 * i + 1) := by
  constructor
  · exact fun h i hi => ⟨h _ (by omega), h _ (by omega)⟩
  · intro h k hk
    obtain ⟨heven, hodd⟩ := h (k / 2) (by omega)
    obtain hmod | hmod := Nat.mod_two_eq_zero_or_one k
    · rwa [show 2 * (k / 2) = k by omega] at heven
    · rwa [show 2 * (k / 2) + 1 = k by omega] at hodd

/-- Settles O34: the second byte of every container is kept, so the words are the input where the first bytes are. -/
theorem highZeroRoundTrip : Obligations.HighZeroRoundTrip := by
  intro ch s hready
  have hnone : firstFailing (checksOf (.unpack16 .depth12 true ch) s) = none := (packedChecks_none_iff ..).mpr hready
  refine ⟨_, exec_eq_successState hnone, fun i hi => ⟨_, holdsWord_unpack16_highZero hi, ?_, highZeroWord_nibble _ _⟩,
    fun hbe => forall_lt_two_mul_iff.trans (forall₂_congr fun i hi => ?_)⟩
  · rw [highZeroWord_low12, sample_depth12_highZero]
  · have hword := holdsWord_unpack16_highZero hi
    rw [hbe] at hword
    obtain ⟨hhigh, hlow⟩ := hword
    rw [← add_assoc, ← add_assoc, hhigh, hlow, highZeroWord_lowByte, highZeroWord_highByte_eq_iff]
    exact and_iff_left rfl

/-! WINDOW8 with MODE 0. -/

/-- A check that passes does not decide the code. -/
theorem firstFailing_cons_of_passes {c : Check} (h : c.1 = false) (cs : List Check) :
    firstFailing (c :: cs) = firstFailing cs := by
  rw [firstFailing, h]
  rfl

/-- A legal MODE leaves WINDOW8 the verdict of UNPACK8 (`60_exceptions.md` R202). -/
theorem firstFailing_window8Checks {mode : BitVec 3} (hmode : mode.toNat ≤ 5) (bpp : Bpp) (hz : Bool) (ch : BitVec 2)
    (s : State) :
    firstFailing (window8Checks bpp hz mode ch s) = firstFailing (packedChecks bpp hz ch (sampleCount ch s) s) := by
  have hskip : ∀ cs : List Check, firstFailing (checkMode mode :: cs) = firstFailing cs :=
    firstFailing_cons_of_passes ((checkMode_passes mode).mpr hmode)
  change firstFailing ([checkBpp _ bpp, checkHz16 bpp hz] ++ checkMode mode :: _) = _
  rw [firstFailing_append, hskip, ← firstFailing_append]
  rfl

/-- The top window of a sample is its high byte, when WIN16_SHIFT(0) is 8. -/
theorem window_zero_eq_highByte {p : Params} (hp : p.winShift0 = 8) {bpp : Bpp} {x : Nat} (hx : x < 2 ^ bppBits bpp) :
    window p bpp 0 x = highByte bpp x := by
  have hmask : highByte bpp x &&& 0xFF = highByte bpp x :=
    (Nat.and_two_pow_sub_one_eq_mod _ 8).trans (Nat.mod_eq_of_lt (highByte_lt hx))
  cases bpp with
  | depth8 | noDepth => rfl
  | depth12 => exact hmask
  | depth16 =>
    rw [window, win16Shift, hp]
    exact hmask

theorem successState_window8_mode0 (bpp : Bpp) (hz : Bool) (ch : BitVec 2) {s : State} (hs : s.params.winShift0 = 8) :
    successState (.window8 bpp hz 0 ch) s = successState (.unpack8 bpp hz ch) s := by
  have hvalues : (samples bpp hz ch s).map (window s.params bpp 0) = (samples bpp hz ch s).map (highByte bpp) := by
    refine List.map_congr_left fun x hx => ?_
    obtain ⟨i, -, rfl⟩ := mem_samples_iff.mp hx
    exact window_zero_eq_highByte hs (sample_lt_two_pow ..)
  have hdata : outData (.window8 bpp hz 0 ch) s = outData (.unpack8 bpp hz ch) s := congrArg byteList hvalues
  rw [successState, hdata]
  rfl

/-- A command's outcome is fixed by its verdict and by the state a success leaves. -/
theorem exec_congr {i j : Instr} {s : State} (hchecks : firstFailing (checksOf i s) = firstFailing (checksOf j s))
    (hsuccess : successState i s = successState j s) : exec i s = exec j s := by
  rw [exec_eq_runCommand, exec_eq_runCommand, runCommand, runCommand, hchecks, bodyOf_eq_successState,
    bodyOf_eq_successState, hsuccess]

/-- Settles O37. -/
theorem window8Mode0IsUnpack8 : Obligations.Window8Mode0IsUnpack8 := fun bpp hz ch s hs =>
  exec_congr (firstFailing_window8Checks (by decide) bpp hz ch s) (successState_window8_mode0 bpp hz ch hs)

end Sys2Proof.Proofs
end

section
/-! NORM8 (`42_range_reduce.md` R161 to R163): Normalize of the elements of an unpacked source. -/

namespace Sys2Proof.Proofs
open Sys2Proof Sys2Proof.Machine

/-! RoundDiv and the scaling of one sample (R161). -/

/-- HALF_UP is the nearest integer with halves up: `q - 1/2 ≤ a / b < q + 1/2` for the result `q`. -/
theorem roundDiv_halfUp_bounds (a : Nat) {b : Nat} (hb : 0 < b) :
    2 * b * roundDiv .halfUp a b ≤ 2 * a + b ∧ 2 * a + b < 2 * b * (roundDiv .halfUp a b + 1) :=
  ⟨Nat.mul_div_le _ _, Nat.lt_mul_div_succ _ (Nat.mul_pos Nat.two_pos hb)⟩

/-- TRUNC is the integer part. -/
theorem roundDiv_trunc_bounds (a : Nat) {b : Nat} (hb : 0 < b) :
    b * roundDiv .trunc a b ≤ a ∧ a < b * (roundDiv .trunc a b + 1) :=
  ⟨Nat.mul_div_le _ _, Nat.lt_mul_div_succ _ hb⟩

theorem roundDiv_one (r : NormRound) (a : Nat) : roundDiv r a 1 = a := by
  cases r with
  | halfUp =>
    rw [roundDiv]
    omega
  | trunc => exact Nat.div_one a

/-- An exact quotient is not rounded. -/
theorem roundDiv_mul_self (r : NormRound) (a : Nat) {b : Nat} (hb : 0 < b) : roundDiv r (a * b) b = a := by
  have hcancel := roundDiv_mul_right r a 1 hb
  rwa [Nat.one_mul, roundDiv_one] at hcancel

/-- A nonzero maximum scales to 255. -/
theorem scaleSample_self (r : NormRound) {mx : Nat} (hmx : mx ≠ 0) : scaleSample r mx mx = 255 := by
  rw [scaleSample_of_ne_zero r hmx, Nat.mul_comm, roundDiv_mul_self r 255 (Nat.pos_of_ne_zero hmx)]

/-- Settles O40. -/
theorem normalizeRoundsIntoBytes : Obligations.NormalizeRoundsIntoBytes := by
  refine ⟨fun r xs x hx => ⟨?_, ?_⟩, fun a b hb => ⟨roundDiv_halfUp_bounds a hb, roundDiv_trunc_bounds a hb⟩⟩
  · exact Nat.le_of_lt_succ (scaleSample_lt r (le_maxSample hx))
  · intro hmax hne
    exact hmax ▸ scaleSample_self r hne

/-! The elements (R162). -/

theorem rdW_lt (o : WordOrder) (m : Memory) (a : Nat) : Memory.rdW o m a < 2 ^ 16 := by
  have hfirst : Memory.rd8 m a < 2 ^ 8 := BitVec.isLt _
  have hsecond : Memory.rd8 m (a + 1) < 2 ^ 8 := BitVec.isLt _
  cases o with
  | be | le =>
    rw [Memory.rdW]
    omega

/-- An element fits MAXVAL. -/
theorem element_lt (o : WordOrder) (m : Memory) (src : Nat) (bpp : Bpp) (i : Nat) :
    element o m src bpp i < 2 ^ 16 := by
  cases bpp with
  | depth16 => exact rdW_lt o m _
  | depth8 | depth12 | noDepth => exact (BitVec.isLt (Memory.read m (src + i))).trans (by decide)

theorem mem_elements_iff {bpp : Bpp} {n : Nat} {s : State} {x : Nat} :
    x ∈ elements bpp n s ↔ ∃ i, i < n ∧ element s.params.wordOrder s.mem s.src.toNat bpp i = x := by
  simp [elements]

theorem map_elements_getElem? (f : Nat → Nat) (bpp : Bpp) {n : Nat} (s : State) {k : Nat} (hk : k < n) :
    ((elements bpp n s).map f)[k]? = some (f (element s.params.wordOrder s.mem s.src.toNat bpp k)) := by
  simp [elements, hk]

theorem rdW_eq_zero {m : Memory} {a : Nat} (hfirst : Memory.read m a = 0) (hsecond : Memory.read m (a + 1) = 0)
    (o : WordOrder) : Memory.rdW o m a = 0 := by
  cases o with
  | be | le => simp [Memory.rdW, Memory.rd8, hfirst, hsecond]

/-- The elements of a source whose bytes are all 0. -/
theorem element_eq_zero {m : Memory} {src n i : Nat} {bpp : Bpp} (hbpp : elementDepthLegal bpp = true)
    (hzero : ∀ k, k < n * bppBits bpp / 8 → Memory.read m (src + k) = 0) (hi : i < n) (o : WordOrder) :
    element o m src bpp i = 0 := by
  cases bpp with
  | depth8 => exact congrArg BitVec.toNat (hzero i (by simp only [bppBits]; omega))
  | depth16 =>
    simp only [bppBits] at hzero
    exact rdW_eq_zero (hzero (2 * i) (by omega)) (hzero (2 * i + 1) (by omega)) o
  | depth12 | noDepth => exact absurd hbpp (by decide)

/-! The command (R162, R163). -/

/-- The byte NORM8 leaves for an element. -/
theorem read_norm8 (bpp : Bpp) {ch : BitVec 2} {s : State} {k : Nat} (hk : k < sampleCount ch s) :
    Memory.read (successState (.norm8 bpp ch) s).mem (s.dst.toNat + k) =
      BitVec.ofNat 8 (scaleSample s.params.normRound (maxSample (elements bpp (sampleCount ch s) s))
        (element s.params.wordOrder s.mem s.src.toNat bpp k)) :=
  read_successState_byteList (i := .norm8 bpp ch) rfl (map_elements_getElem? _ bpp s hk)

/-- Settles O38: the maximum is an element, so it fits MAXVAL and bounds the element that each byte scales. -/
theorem norm8Normalizes : Obligations.Norm8Normalizes := by
  intro bpp ch s hready
  have hnone : firstFailing (checksOf (.norm8 bpp ch) s) = none := (norm8Checks_none_iff ..).mpr hready
  obtain ⟨-, hch, hwidth, hheight, -⟩ := hready
  have hnonempty : elements bpp (sampleCount ch s) s ≠ [] :=
    List.ne_nil_of_length_pos (by rw [elements_length]; exact sampleCount_pos hch hwidth hheight)
  obtain ⟨i, hi, hmax⟩ := mem_elements_iff.mp (maxSample_mem hnonempty)
  have hle : ∀ k, k < sampleCount ch s → element s.params.wordOrder s.mem s.src.toNat bpp k ≤
      maxSample (elements bpp (sampleCount ch s) s) :=
    fun k hk => le_maxSample (mem_elements_iff.mpr ⟨k, hk, rfl⟩)
  refine ⟨_, _, exec_eq_successState hnone, ⟨i, hi, hmax⟩, hle, ?_, completedOk_successState hnone, fun k hk => ?_⟩
  · exact (BitVec.toNat_ofNat _ _).trans (Nat.mod_eq_of_lt (hmax ▸ element_lt ..))
  · rw [read_norm8 bpp hk, BitVec.toNat_ofNat, Nat.mod_eq_of_lt (scaleSample_lt _ (hle k hk)), scaleSample]

/-- Settles O39: the maximum is one of the zero elements, so every byte is written without a division. -/
theorem norm8OfZerosIsZero : Obligations.Norm8OfZerosIsZero := by
  intro bpp ch s hready hzero
  obtain ⟨t, mx, hexec, ⟨i, hi, hmax⟩, -, hmaxval, ⟨-, hregs⟩, hbytes⟩ := norm8Normalizes bpp ch s hready
  obtain ⟨hbpp, -, -, -, hlen, -⟩ := hready
  have hmx : mx = 0 := hmax ▸ element_eq_zero hbpp (hlen ▸ hzero) hi s.params.wordOrder
  refine ⟨t, hexec, congrArg State.errcode hregs, BitVec.eq_of_toNat_eq (hmaxval.trans hmx), fun k hk => ?_⟩
  exact BitVec.eq_of_toNat_eq ((hbytes k hk).trans (if_pos hmx))

end Sys2Proof.Proofs
end

section
/-! DEMOSAIC (`43_demosaic.md` R171, R172): the destination holds the kernel's samples, one byte or one word each. The
kernel's values are free (`00_scope.md` R9): only their number and their bound are used. -/

namespace Sys2Proof.Proofs
open Sys2Proof Sys2Proof.Machine

/-- What the kernel gives for the mosaic at SRC. -/
abbrev mosaicOutput (bpp : Bpp) (layout : Layout) (target : Target) (s : State) : List Nat :=
  demosaicKernel layout target (bppBits bpp) s.width.toNat s.height.toNat (elements bpp (pixelCount s) s)

theorem elementBytes_length (o : WordOrder) {bpp : Bpp} (hbpp : elementDepthLegal bpp = true) (vs : List Nat) :
    (elementBytes o bpp vs).length = vs.length * (bppBits bpp / 8) := by
  cases bpp with
  | depth8 => exact (byteList_length vs).trans (Nat.mul_one _).symm
  | depth16 => exact (wordListBytes_length o vs).trans (Nat.mul_comm _ _)
  | depth12 | noDepth => exact absurd hbpp (by decide)

/-- The output length counts the bytes of the kernel's samples. -/
theorem demosaicLength_eq_mosaicOutput_length_mul {bpp : Bpp} (hbpp : elementDepthLegal bpp = true) (layout : Layout)
    (target : Target) (s : State) :
    demosaicLength bpp target s = (mosaicOutput bpp layout target s).length * (bppBits bpp / 8) :=
  (elementBytes_demosaicKernel_length hbpp layout target _ s).symm.trans (elementBytes_length _ hbpp _)

/-- Each sample of the kernel fits its depth, so it survives the write to its byte or word. -/
theorem mosaicOutput_lt {bpp : Bpp} {layout : Layout} {target : Target} {s : State} {j v : Nat}
    (hv : (mosaicOutput bpp layout target s)[j]? = some v) : v < 2 ^ bppBits bpp :=
  lt_two_pow_of_mem_demosaicKernel (List.mem_of_getElem? hv)

section
variable (ch : BitVec 2) {layout : Layout} {target : Target} {s : State} {j v : Nat}

/-- The byte DEMOSAIC leaves for an 8-bit sample. -/
theorem read_demosaic_depth8 (hv : (mosaicOutput .depth8 layout target s)[j]? = some v) :
    (Memory.read (successState (.demosaic .depth8 ch layout target) s).mem (s.dst.toNat + j)).toNat = v := by
  have hbyte : Memory.read (successState (.demosaic .depth8 ch layout target) s).mem (s.dst.toNat + j) =
      BitVec.ofNat 8 v := read_successState_byteList (i := .demosaic .depth8 ch layout target) rfl hv
  have hlt : v < 2 ^ 8 := mosaicOutput_lt hv
  rw [hbyte, BitVec.toNat_ofNat, Nat.mod_eq_of_lt hlt]

/-- The word DEMOSAIC leaves for a 16-bit sample. -/
theorem holdsWord_demosaic_depth16 (hv : (mosaicOutput .depth16 layout target s)[j]? = some v) :
    ∃ w : Half, holdsWord s.params.wordOrder (successState (.demosaic .depth16 ch layout target) s).mem
      (s.dst.toNat + 2 * j) w ∧ w.toNat = v :=
  ⟨BitVec.ofNat 16 v, holdsWord_successState (i := .demosaic .depth16 ch layout target) rfl hv,
    (BitVec.toNat_ofNat v 16).trans (Nat.mod_eq_of_lt (mosaicOutput_lt hv))⟩

end

/-- Settles O45. -/
theorem demosaicWritesKernelOutput : Obligations.DemosaicWritesKernelOutput := by
  intro bpp ch layout target s hready
  have hnone : firstFailing (checksOf (.demosaic bpp ch layout target) s) = none :=
    (demosaicChecks_none_iff ..).mpr hready
  obtain ⟨hbpp, -⟩ := hready
  refine ⟨_, exec_eq_successState hnone, completedOk_successState hnone,
    demosaicLength_eq_mosaicOutput_length_mul hbpp layout target s, fun j hj => ?_⟩
  have hv : (mosaicOutput bpp layout target s)[j]? = some ((mosaicOutput bpp layout target s).getD j 0) := by
    rw [List.getElem?_eq_getElem hj, List.getD_eq_getElem _ 0 hj]
  constructor
  · rintro rfl
    exact read_demosaic_depth8 ch hv
  · rintro rfl
    exact holdsWord_demosaic_depth16 ch hv

end Sys2Proof.Proofs
end

section
/-! RoundQ and the clamp of GAIN (`44_gain.md` R181, R184): every GAIN_ROUND is monotone and exact on multiples of 1024, and
the corner cases of the gain product follow from these two facts. -/

namespace Sys2Proof.Proofs
open Sys2Proof Sys2Proof.Machine

/-! RoundQ. -/

/-- HALF_UP is the nearest integer with halves up: `q - 1/2 ≤ p / 1024 < q + 1/2` for the result `q`. -/
theorem roundQ_halfUp_bounds (p : Int) :
    1024 * roundQ .halfUp p ≤ p + 512 ∧ p + 512 < 1024 * (roundQ .halfUp p + 1) := by
  simp only [roundQ]
  omega

/-- HALF_EVEN errs by at most a half, and by a half only towards an even result. -/
theorem roundQ_halfEven_nearest (p : Int) :
    2 * |1024 * roundQ .halfEven p - p| ≤ 1024 ∧
      (2 * |1024 * roundQ .halfEven p - p| = 1024 → roundQ .halfEven p % 2 = 0) := by
  simp only [roundQ, Int.abs_eq_natAbs]
  split <;> omega

/-- TRUNC drops less than a unit of a product that is not negative. -/
theorem roundQ_trunc_of_nonneg {p : Int} (hp : 0 ≤ p) :
    0 ≤ roundQ .trunc p ∧ 1024 * roundQ .trunc p ≤ p ∧ p < 1024 * roundQ .trunc p + 1024 := by
  rw [roundQ, if_pos hp]
  omega

/-- TRUNC is odd: it rounds a negative product as its absolute value. -/
theorem roundQ_trunc_neg (p : Int) : roundQ .trunc (-p) = -roundQ .trunc p := by
  simp only [roundQ]
  split <;> split <;> omega

/-- TRUNC rounds toward zero: the result is no larger than `p / 1024` in absolute value, within a unit of it, and of its
sign. -/
theorem roundQ_trunc_toward_zero (p : Int) :
    |1024 * roundQ .trunc p| ≤ |p| ∧ |p| < |1024 * roundQ .trunc p| + 1024 ∧ 0 ≤ p * roundQ .trunc p := by
  wlog hp : 0 ≤ p generalizing p with hnonneg
  · have hneg := hnonneg (-p) (by omega)
    rwa [roundQ_trunc_neg, mul_neg, abs_neg, abs_neg, neg_mul_neg] at hneg
  · obtain ⟨hq, hle, hlt⟩ := roundQ_trunc_of_nonneg hp
    rw [abs_of_nonneg hp, abs_of_nonneg (mul_nonneg (by decide) hq)]
    exact ⟨hle, hlt, mul_nonneg hp hq⟩

/-- Settles O44. -/
theorem gainRoundingIsNearest : Obligations.GainRoundingIsNearest := fun p =>
  ⟨roundQ_halfUp_bounds p, roundQ_halfEven_nearest p, roundQ_trunc_toward_zero p⟩

theorem roundQ_mono (r : GainRound) {p q : Int} (h : p ≤ q) : roundQ r p ≤ roundQ r q := by
  cases r with
  | halfUp =>
    simp only [roundQ]
    omega
  | halfEven | trunc =>
    simp only [roundQ]
    split <;> split <;> omega

/-- An exact quotient is not rounded. -/
theorem roundQ_mul_1024 (r : GainRound) (n : Int) : roundQ r (n * 1024) = n := by
  cases r with
  | halfUp =>
    simp only [roundQ]
    omega
  | halfEven | trunc =>
    simp only [roundQ]
    split <;> omega

/-! The clamp (R184). -/

theorem clampByte_eq_ite (v : Int) : (clampByte v : Int) = if v < 0 then 0 else if v > 255 then 255 else v := by
  rw [clampByte]
  split_ifs <;> omega

theorem clampByte_lt (v : Int) : clampByte v < 2 ^ 8 := by
  rw [clampByte]
  omega

theorem clampByte_of_nonpos {v : Int} (h : v ≤ 0) : clampByte v = 0 := by
  rw [clampByte]
  omega

theorem clampByte_of_ge {v : Int} (h : 255 ≤ v) : clampByte v = 255 := by
  rw [clampByte]
  omega

/-- A byte is not clamped. -/
theorem clampByte_toNat (b : Byte) : clampByte b.toNat = b.toNat := by
  rw [clampByte]
  omega

/-- Settles O43: the product is at most 0 in the first case, and at least 255 * 1024 in the second. -/
theorem gainProductsSaturate : Obligations.GainProductsSaturate := by
  refine fun r x g _ => ⟨fun hg => clampByte_of_nonpos ?_, fun hx => clampByte_of_ge ?_⟩
  · calc roundQ r (x * g)
        ≤ roundQ r (0 * 1024) := roundQ_mono r (mul_nonpos_of_nonneg_of_nonpos (Int.natCast_nonneg x) hg)
      _ = 0 := roundQ_mul_1024 r 0
  · calc (255 : Int)
        = roundQ r (255 * 1024) := (roundQ_mul_1024 r 255).symm
      _ ≤ roundQ r (x * 10240) := roundQ_mono r (by omega)

end Sys2Proof.Proofs
end

section
/-! GAIN (`44_gain.md` R181, R182, R185): each destination byte is the clamped gain product of the pixel at its raster
index (`30_encoding.md` R91), all read before the first write (`10_state.md` R42). -/

namespace Sys2Proof.Proofs
open Sys2Proof Sys2Proof.Machine

/-! The sample of a pixel. -/

/-- A pixel's raster index lies in the image. -/
theorem raster_lt_pixelCount {s : State} {x y : Nat} (hx : x < s.width.toNat) (hy : y < s.height.toNat) :
    y * s.width.toNat + x < pixelCount s := by
  calc y * s.width.toNat + x
      < (y + 1) * s.width.toNat := by rw [Nat.succ_mul]; exact Nat.add_lt_add_left hx _
    _ ≤ s.height.toNat * s.width.toNat := Nat.mul_le_mul_right _ hy
    _ = pixelCount s := Nat.mul_comm _ _

/-- The raster index of column `x` and row `y` is that of a pixel on the site of `(y, x)`. -/
theorem gainSample_raster (layout : Layout) {s : State} {x : Nat} (hx : x < s.width.toNat) (y : Nat) :
    gainSample layout s (y * s.width.toNat + x) =
      clampByte (roundQ s.params.gainRound
        ((Memory.read s.mem (s.src.toNat + (y * s.width.toNat + x))).toNat * siteGain s (siteOf layout y x))) := by
  have hrow : (y * s.width.toNat + x) / s.width.toNat = y := by
    rw [Nat.mul_comm, Nat.mul_add_div (Nat.zero_lt_of_lt hx), Nat.div_eq_of_lt hx, Nat.add_zero]
  have hcolumn : (y * s.width.toNat + x) % s.width.toNat = x := by
    rw [Nat.mul_add_mod', Nat.mod_eq_of_lt hx]
  rw [gainSample, hrow, hcolumn, Memory.rd8]

theorem gainSample_lt (layout : Layout) (s : State) (k : Nat) : gainSample layout s k < 2 ^ 8 := clampByte_lt _

/-- The reset gains give every site the gain 1.0 (`10_state.md` R32). -/
theorem siteGain_of_unit_gains {s : State} (hr : s.gainR = 0x0400) (hg : s.gainG = 0x0400) (hb : s.gainB = 0x0400)
    (site : Site) : siteGain s site = 1024 := by
  cases site with
  | r => rw [siteGain, hr]; rfl
  | g1 | g2 => rw [siteGain, hg]; rfl
  | b => rw [siteGain, hb]; rfl

/-- A sample times 1.0 is the sample, whatever GAIN_ROUND and the layout are. -/
theorem gainSample_of_unit_gains {s : State} (hr : s.gainR = 0x0400) (hg : s.gainG = 0x0400) (hb : s.gainB = 0x0400)
    (layout : Layout) (k : Nat) : gainSample layout s k = (Memory.read s.mem (s.src.toNat + k)).toNat := by
  rw [gainSample, siteGain_of_unit_gains hr hg hb, roundQ_mul_1024, Memory.rd8, clampByte_toNat]

/-! The command. -/

/-- The byte GAIN leaves for the pixel at a raster index. -/
theorem read_gain (bpp : Bpp) (ch : BitVec 2) (layout : Layout) {s : State} {k : Nat} (hk : k < pixelCount s) :
    Memory.read (successState (.gain bpp ch layout) s).mem (s.dst.toNat + k) = BitVec.ofNat 8 (gainSample layout s k) :=
  read_successState_byteList (i := .gain bpp ch layout) rfl (by simp [hk])

/-- Settles O41. -/
theorem gainScalesEverySite : Obligations.GainScalesEverySite := by
  intro bpp ch layout s hready
  have hnone : firstFailing (checksOf (.gain bpp ch layout) s) = none := (gainChecks_none_iff ..).mpr hready
  refine ⟨_, exec_eq_successState hnone, completedOk_successState hnone, fun x y hx hy => ?_⟩
  simp only
  rw [read_gain bpp ch layout (raster_lt_pixelCount hx hy), BitVec.toNat_ofNat,
    Nat.mod_eq_of_lt (gainSample_lt layout s _), gainSample_raster layout hx, clampByte_eq_ite]

/-- Settles O42. -/
theorem gainOneIsIdentity : Obligations.GainOneIsIdentity := by
  intro bpp ch layout s hready hr hg hb
  have hnone : firstFailing (checksOf (.gain bpp ch layout) s) = none := (gainChecks_none_iff ..).mpr hready
  refine ⟨_, exec_eq_successState hnone, fun i hi => ?_⟩
  rw [read_gain bpp ch layout hi, gainSample_of_unit_gains hr hg hb, BitVec.ofNat_toNat, BitVec.setWidth_eq]

end Sys2Proof.Proofs
end

section
/-! How a command word ends (`60_exceptions.md` R200 to R206): every word has one check table, the decoder's finding or the
command's checks, and its first failing step decides between an error that writes nothing and the command's success. -/

namespace Sys2Proof.Proofs
open Sys2Proof Sys2Proof.Machine

/-! The engine's turn. -/

theorem completeWord_of_ok {w : Word} {i : Instr} (h : decode w = .ok i) (s : State) : completeWord w s = exec i s := by
  simp only [completeWord, h]

theorem step_of_no_events {s : State} (h : s.events = []) : step s = engineStep s := by
  simp only [step, h]

theorem step_of_engine {s : State} {rest : List Event} (h : s.events = .engine :: rest) :
    step s = engineStep { s with events := rest } := by
  simp only [step, h]

theorem engineStep_eq_exec {s : State} {i : Instr} (hb : s.busy = true) (h : decode s.cmd = .ok i) :
    engineStep s = exec i s := by
  rw [engineStep_of_busy hb, completeWord_of_ok h]

/-- Settles O9. -/
theorem stepRunsIssuedCommand : Obligations.StepRunsIssuedCommand := by
  intro s i hb hcmd
  constructor
  · intro hev
    rw [step_of_no_events hev, engineStep_eq_exec hb hcmd]
  · intro rest hev
    rw [step_of_engine hev]
    exact engineStep_eq_exec (s := { s with events := rest }) hb hcmd

theorem engineStep_answers (s : State) : ∃ t, engineStep s = .next t := by
  obtain ⟨-, heq⟩ | ⟨e, -, -, heq⟩ | ⟨i, -, -, heq⟩ := engineStep_cases s
  · exact ⟨_, heq⟩
  · exact ⟨_, heq⟩
  · rw [heq]
    exact exec_answers i s

/-- Settles O11: a host operation is total, and the engine's turn either does nothing or completes a command. -/
theorem stepAlwaysAnswers : Obligations.StepAlwaysAnswers := by
  intro s
  obtain ⟨-, heq⟩ | ⟨rest, -, heq⟩ | ⟨op, rest, -, heq⟩ := step_cases s <;> rw [heq]
  · exact engineStep_answers s
  · exact engineStep_answers { s with events := rest }
  · exact ⟨_, rfl⟩

/-! The check table of a word. -/

/-- The check table of a command word (`60_exceptions.md` R202): what the decoder found in steps 1 and 2, or the steps of
the command that the word spells. -/
def checksOfWord (w : Word) (s : State) : List Check :=
  match decode w with
  | .error e => [(true, decodeErrorCode e)]
  | .ok i => checksOf i s

theorem checksOfWord_of_error {w : Word} {e : DecodeError} (h : decode w = .error e) (s : State) :
    checksOfWord w s = [(true, decodeErrorCode e)] := by
  simp only [checksOfWord, h]

theorem checksOfWord_of_ok {w : Word} {i : Instr} (h : decode w = .ok i) (s : State) :
    checksOfWord w s = checksOf i s := by
  simp only [checksOfWord, h]

/-- No step looks at memory (`60_exceptions.md` R203). -/
theorem checksOfWord_withMem (w : Word) (s : State) (m : Memory) :
    checksOfWord w { s with mem := m } = checksOfWord w s := by
  cases h : decode w with
  | error e => rw [checksOfWord_of_error h, checksOfWord_of_error h]
  | ok i => rw [checksOfWord_of_ok h, checksOfWord_of_ok h, checksOf_withMem]

theorem decodeErrorCode_ne_ok (e : DecodeError) : decodeErrorCode e ≠ .ok := by
  cases e <;> decide

/-- All that a command word can do (`60_exceptions.md` R203, R206, R207): end with the code of the first failing step and
nothing written, or fail no step and succeed. -/
theorem completeWord_cases {w : Word} {s t : State} (h : completeWord w s = .next t) :
    (∃ code, code ≠ .ok ∧ firstFailing (checksOfWord w s) = some code ∧ t = State.complete code 0 s) ∨
    (∃ i, firstFailing (checksOfWord w s) = none ∧ t = successState i s) := by
  cases hdecode : decode w with
  | error e =>
    cases (completeWord_of_error hdecode s).symm.trans h
    exact .inl ⟨_, decodeErrorCode_ne_ok e, by rw [checksOfWord_of_error hdecode]; rfl, rfl⟩
  | ok i =>
    rw [completeWord_of_ok hdecode] at h
    rw [checksOfWord_of_ok hdecode]
    obtain herr | hsucc := exec_cases_successState h
    · exact .inl herr
    · exact .inr ⟨i, hsucc⟩

theorem completeWord_answers (w : Word) (s : State) : ∃ t, completeWord w s = .next t := by
  obtain ⟨code, n, m, mx, h⟩ := completeWord_eq_complete w s
  exact ⟨_, h⟩

/-- The ERRCODE that a check table gives: the first failing step's, or OK. -/
def reportOf (cs : List Check) : BitVec 8 := codeByte ((firstFailing cs).getD .ok)

/-- ERRCODE after a word is what the word's table reports. -/
theorem errcode_of_completeWord {w : Word} {s t : State} (h : completeWord w s = .next t) :
    t.errcode = reportOf (checksOfWord w s) := by
  obtain ⟨code, -, hfail, rfl⟩ | ⟨i, hnone, rfl⟩ := completeWord_cases h
  · rw [reportOf, hfail]
    rfl
  · rw [reportOf, hnone]
    rfl

/-- An error changes STATUS and OUT_LEN alone (`60_exceptions.md` R203). -/
theorem complete_error_eq {code : ResultCode} (h : code ≠ .ok) (s : State) :
    State.complete code 0 s =
      { s with outLen := 0, errcode := codeByte code, err := true, done := true, busy := false } := by
  simp [State.complete, h]

/-- Settles O17: an error is a completion with length 0, and the table that decides does not look at memory. -/
theorem errorsWriteNothing : Obligations.ErrorsWriteNothing := by
  intro w s
  obtain ⟨t, ht⟩ := completeWord_answers w s
  refine ⟨t, ht, fun herr => ?_, fun m => ?_⟩
  · obtain ⟨code, hne, -, rfl⟩ | ⟨i, -, rfl⟩ := completeWord_cases ht
    · exact complete_error_eq hne s
    · exact absurd rfl herr
  · obtain ⟨t', ht'⟩ := completeWord_answers w { s with mem := m }
    exact ⟨t', ht', by rw [errcode_of_completeWord ht', errcode_of_completeWord ht, checksOfWord_withMem]⟩

/-- Settles O18. -/
theorem completionSetsStatus : Obligations.CompletionSetsStatus := by
  intro w s
  obtain ⟨code, n, m, mx, h⟩ := completeWord_eq_complete w s
  exact ⟨_, h, codeByte_mem_legalCodes code, by simp, rfl, rfl⟩

end Sys2Proof.Proofs
end

section
/-! The reported code against the table of `60_exceptions.md` R202 as the claim states it, on the numbers in the word's bits
and the registers. -/

namespace Sys2Proof.Proofs
open Sys2Proof Sys2Proof.Machine Sys2Proof.Claims

/-! The fields of a word as numbers (`30_encoding.md` R81), the powers of two in the form `simp` gives them. -/

@[simp] theorem fieldBpp_toNat (w : Word) : (fieldBpp w).toNat = w.toNat / 16 % 4 := by
  simp [fieldBpp, Nat.shiftRight_eq_div_pow]

@[simp] theorem fieldHz_toNat (w : Word) : (fieldHz w).toNat = w.toNat / 64 % 2 := by
  simp [fieldHz, BitVec.getLsbD, Nat.toNat_testBit]

@[simp] theorem fieldMode_toNat (w : Word) : (fieldMode w).toNat = w.toNat / 256 % 8 := by
  simp [fieldMode, Nat.shiftRight_eq_div_pow]

@[simp] theorem fieldCh_toNat (w : Word) : (fieldCh w).toNat = w.toNat / 4096 % 4 := by
  simp [fieldCh, Nat.shiftRight_eq_div_pow]

@[simp] theorem fieldTarget_toNat (w : Word) : (fieldTarget w).toNat = w.toNat / 65536 % 2 := by
  simp [fieldTarget, BitVec.getLsbD, Nat.toNat_testBit]

@[simp] theorem fieldGroup_toNat (w : Word) : (fieldGroup w).toNat = w.toNat / 1048576 % 16 := by
  simp [fieldGroup, Nat.shiftRight_eq_div_pow]

/-! Steps 1 and 2: OP, and the bits that must be zero. -/

theorem mnemonicOfOp_eq_some_iff (op : BitVec 4) (m : Mnemonic) :
    mnemonicOfOp op = some m ↔ op.toNat = opOfMnemonic m := by
  cases m <;> revert op <;> decide

/-- A word with a row's OP matches the row exactly when the row's other mask bits are zero (`30_encoding.md` R93). -/
theorem and_mustBeZero_eq_zero_iff {w : Word} {m : Mnemonic} (hop : w.toNat % 16 = opOfMnemonic m) :
    w &&& mustBeZero (opOfMnemonic m) = 0 ↔ w &&& rowMask m = rowMatch m := by
  have hlow : w &&& 0xF = rowMatch m := by
    apply BitVec.eq_of_toNat_eq
    calc (w &&& 0xF).toNat = w.toNat % 16 := Nat.and_two_pow_sub_one_eq_mod w.toNat 4
      _ = opOfMnemonic m := hop
      _ = (rowMatch m).toNat := by cases m <;> rfl
  have hmask : rowMask m = mustBeZero (opOfMnemonic m) ||| 0xF := by cases m <;> rfl
  constructor
  · intro h
    rw [hmask, BitVec.and_or_distrib_left, h, hlow]
    exact BitVec.zero_or
  · intro h
    have hsub : rowMask m &&& mustBeZero (opOfMnemonic m) = mustBeZero (opOfMnemonic m) := by cases m <;> rfl
    have hmatch : rowMatch m &&& mustBeZero (opOfMnemonic m) = 0 := by cases m <;> rfl
    rw [← hsub, ← BitVec.and_assoc, h, hmatch]

/-! Steps 3 to 12: the condition of each check on the fields and the registers. -/

/-- A step ends the command with its code exactly when its condition holds. -/
theorem reportOf_cons {c : Check} {p : Prop} [Decidable p] (h : c.1 = true ↔ p) (cs : List Check) :
    reportOf (c :: cs) = if p then codeByte c.2 else reportOf cs := by
  obtain ⟨holds, code⟩ := c
  cases holds
  · exact (if_neg (mt h.mpr Bool.false_ne_true)).symm
  · exact (if_pos (h.mp rfl)).symm

@[simp] theorem reportOf_nil : reportOf [] = 0 := rfl

/-- Of the four BPP codes all but 3 name a bit-depth (`30_encoding.md` R83). -/
theorem depth_code_cases {c : BitVec 2} (hc : c.toNat ≠ 3) : c = 0 ∨ c = 1 ∨ c = 2 := by
  revert c; decide

theorem bppBits_bppOfCode {c : BitVec 2} (hc : c.toNat ≠ 3) : bppBits (bppOfCode c) = 8 + 4 * c.toNat := by
  obtain rfl | rfl | rfl := depth_code_cases hc <;> rfl

theorem stride_bppOfCode {c : BitVec 2} (hc : c.toNat ≠ 3) (p : Params) (hz : Bool) :
    stride p (bppOfCode c) hz = strideOf p c.toNat hz.toNat := by
  obtain rfl | rfl | rfl := depth_code_cases hc <;> cases hz <;> rfl

/-- The rounded-up byte count in closed form for each packing convention (`41_bitunpack.md` R121). -/
theorem expectedLength_bppOfCode {c : BitVec 2} (hc : c.toNat ≠ 3) (hz : Bool) (n : Nat) :
    expectedLength (bppOfCode c) hz n = expLen c.toNat hz.toNat n := by
  have hbyte : (n * 8 + 7) / 8 = n := by omega
  have hword : (n * 16 + 7) / 8 = 2 * n := by omega
  have hpacked : (n * 12 + 7) / 8 = (3 * n + 1) / 2 := by omega
  obtain rfl | rfl | rfl := depth_code_cases hc
  · exact hbyte
  · cases hz
    · exact hpacked
    · exact hword
  · exact hword

theorem targetChannels_targetOfCode (b : Bool) : targetChannels (targetOfCode b) = if b.toNat = 0 then 1 else 3 := by
  cases b <;> rfl

section
variable (cs : List Check) (s : State)

@[simp] theorem reportOf_checkBpp_unpacker (c : BitVec 2) :
    reportOf (checkBpp [.depth8, .depth12, .depth16] (bppOfCode c) :: cs) = if c.toNat = 3 then 0x03 else reportOf cs :=
  reportOf_cons (by revert c; decide) cs

@[simp] theorem reportOf_checkBpp_element (c : BitVec 2) :
    reportOf (checkBpp [.depth8, .depth16] (bppOfCode c) :: cs) =
      if c.toNat = 3 ∨ c.toNat = 1 then 0x03 else reportOf cs :=
  reportOf_cons (by revert c; decide) cs

@[simp] theorem reportOf_checkBpp_gain (c : BitVec 2) :
    reportOf (checkBpp [.depth8] (bppOfCode c) :: cs) = if c.toNat = 3 ∨ c.toNat ≠ 0 then 0x03 else reportOf cs :=
  reportOf_cons (by revert c; decide) cs

@[simp] theorem reportOf_checkHz16 (c : BitVec 2) (hz : Bool) :
    reportOf (checkHz16 (bppOfCode c) hz :: cs) = if c.toNat = 2 ∧ hz.toNat = 1 then 0x04 else reportOf cs :=
  reportOf_cons (by revert c hz; decide) cs

@[simp] theorem reportOf_checkMode (mode : BitVec 3) :
    reportOf (checkMode mode :: cs) = if mode.toNat > 5 then 0x05 else reportOf cs :=
  reportOf_cons decide_eq_true_iff cs

@[simp] theorem reportOf_checkChannels (ch : BitVec 2) :
    reportOf (checkChannels ch :: cs) = if ch.toNat ≠ 1 ∧ ch.toNat ≠ 3 then 0x06 else reportOf cs :=
  reportOf_cons (by revert ch; decide) cs

@[simp] theorem reportOf_checkOneChannel (ch : BitVec 2) :
    reportOf (checkOneChannel ch :: cs) = if (ch.toNat ≠ 1 ∧ ch.toNat ≠ 3) ∨ ch.toNat ≠ 1 then 0x06 else reportOf cs :=
  reportOf_cons (by revert ch; decide) cs

@[simp] theorem reportOf_checkGroup (group : BitVec 4) :
    reportOf (checkGroup group :: cs) = if group.toNat = 0 then 0x07 else reportOf cs :=
  reportOf_cons beq_iff_eq cs

@[simp] theorem reportOf_checkDim :
    reportOf (checkDim s :: cs) = if s.width.toNat = 0 ∨ s.height.toNat = 0 then 0x08 else reportOf cs :=
  reportOf_cons (by simp [checkDim]) cs

@[simp] theorem reportOf_checkEvenDim :
    reportOf (checkEvenDim s :: cs) =
      if s.width.toNat = 0 ∨ s.height.toNat = 0 ∨ s.width.toNat % 2 = 1 ∨ s.height.toNat % 2 = 1 then 0x08
      else reportOf cs :=
  reportOf_cons (by simp [checkEvenDim, or_assoc]) cs

@[simp] theorem reportOf_checkGains :
    reportOf (checkGains s :: cs) =
      if ¬(gainLegal s.gainR ∧ gainLegal s.gainG ∧ gainLegal s.gainB) then 0x09 else reportOf cs :=
  reportOf_cons (by rw [← checkGains_passes, Bool.not_eq_false]) cs

@[simp] theorem reportOf_checkGroups (group : BitVec 4) :
    reportOf (checkGroups group s :: cs) =
      if s.offset.toNat > s.len.toNat ∨ (s.len.toNat - s.offset.toNat) % group.toNat ≠ 0 then 0x10
      else reportOf cs :=
  reportOf_cons (by simp [checkGroups]) cs

/-- Step 10 of the BitUnpacker commands; step 3 has refused BPP code 3 before it. -/
theorem reportOf_checkPacked {c : BitVec 2} (hc : c.toNat ≠ 3) (hz : Bool) (ch : BitVec 2) :
    reportOf (checkPacked (bppOfCode c) hz ch s :: cs) =
      if s.len.toNat ≠ expLen c.toNat hz.toNat (s.width.toNat * s.height.toNat * ch.toNat) ∨
        s.len.toNat % strideOf s.params c.toNat hz.toNat ≠ 0 then 0x10 else reportOf cs :=
  reportOf_cons (by simp [checkPacked, expectedLength_bppOfCode hc, stride_bppOfCode hc, sampleCount]) cs

@[simp] theorem reportOf_checkLength (n : Nat) :
    reportOf (checkLength n s :: cs) = if s.len.toNat ≠ n then 0x10 else reportOf cs :=
  reportOf_cons bne_iff_ne cs

@[simp] theorem reportOf_checkSource :
    reportOf (checkSource s :: cs) = if s.src.toNat + s.len.toNat > s.params.memSize then 0x20 else reportOf cs :=
  reportOf_cons decide_eq_true_iff cs

@[simp] theorem reportOf_checkDestination (n : Nat) :
    reportOf (checkDestination n s :: cs) = if s.dst.toNat + n > s.params.memSize then 0x20 else reportOf cs :=
  reportOf_cons decide_eq_true_iff cs

end

/-! The whole table, for a word that passes steps 1 and 2. -/

section
variable {w : Word} {m : Mnemonic} (hop : w.toNat % 16 = opOfMnemonic m) (hzero : w &&& mustBeZero (opOfMnemonic m) = 0)
  (s : State)
include hop hzero

/-- BPP code 3 ends every command but ENDIAN, which has no BPP field, at step 3. -/
theorem codeOf_eq_reportOf_of_noDepth (hm : m ≠ .endian) (h3 : (fieldBpp w).toNat = 3) :
    codeOf w s = reportOf (checksOf (spell w m) s) := by
  rw [fieldBpp_toNat] at h3
  cases m
  case endian => exact absurd rfl hm
  all_goals
    simp only [opOfMnemonic] at hop hzero
    simp [codeOf, hop, hzero, h3, spell, checksOf, packedChecks, window8Checks, norm8Checks, gainChecks, demosaicChecks]

/-- A command's table is the steps of `60_exceptions.md` R202 that speak of its OP, with the same conditions. -/
theorem codeOf_eq_reportOf_of_row : codeOf w s = reportOf (checksOf (spell w m) s) := by
  by_cases hno : m ≠ .endian ∧ (fieldBpp w).toNat = 3
  · obtain ⟨hm, h3⟩ := hno
    exact codeOf_eq_reportOf_of_noDepth hop hzero s hm h3
  have hdepth : m ≠ .endian → (fieldBpp w).toNat ≠ 3 := not_and.mp hno
  cases m <;> simp only [opOfMnemonic] at hop hzero
  case endian => simp [codeOf, hop, hzero, spell, checksOf, endianChecks]
  case unpack8 | unpack16 | stretch16 =>
    simp [codeOf, hop, hzero, spell, checksOf, packedChecks, reportOf_checkPacked _ _ (hdepth nofun), sampleCount,
      outLenOf]
  case window8 =>
    simp [codeOf, hop, hzero, spell, checksOf, window8Checks, reportOf_checkPacked _ _ (hdepth nofun), sampleCount,
      outLenOf]
  case norm8 =>
    simp [codeOf, hop, hzero, spell, checksOf, norm8Checks, bppBits_bppOfCode (hdepth nofun), sampleCount, outLenOf]
  case gain => simp [codeOf, hop, hzero, spell, checksOf, gainChecks, pixelCount, outLenOf]
  case demosaic =>
    simp [codeOf, hop, hzero, spell, checksOf, demosaicChecks, bppBits_bppOfCode (hdepth nofun), pixelCount,
      demosaicLength, targetChannels_targetOfCode, outLenOf]

end

theorem codeOf_of_illegalOp {w : Word} (h : w.toNat % 16 = 0 ∨ 8 < w.toNat % 16) (s : State) : codeOf w s = 0x01 :=
  if_pos h

theorem codeOf_of_reserved {w : Word} {m : Mnemonic} (hop : w.toNat % 16 = opOfMnemonic m)
    (h : w &&& mustBeZero (opOfMnemonic m) ≠ 0) (s : State) : codeOf w s = 0x02 := by
  have hlegal : ¬(w.toNat % 16 = 0 ∨ 8 < w.toNat % 16) := by
    rw [hop]
    cases m <;> decide
  exact (if_neg hlegal).trans (if_pos (hop ▸ h))

/-- The table as the claim states it reports what the word's own table reports. -/
theorem codeOf_eq_reportOf (w : Word) (s : State) : codeOf w s = reportOf (checksOfWord w s) := by
  cases hm : mnemonicOfOp (fieldOp w) with
  | none =>
    have hop := (mnemonicOfOp_eq_none_iff _).mp hm
    rw [fieldOp_toNat] at hop
    rw [codeOf_of_illegalOp hop, checksOfWord_of_error (decode_of_illegalOp hm)]
    rfl
  | some m =>
    have hop := (mnemonicOfOp_eq_some_iff _ m).mp hm
    rw [fieldOp_toNat] at hop
    by_cases hzero : w &&& mustBeZero (opOfMnemonic m) = 0
    · have hrow := (and_mustBeZero_eq_zero_iff hop).mp hzero
      rw [codeOf_eq_reportOf_of_row hop hzero, checksOfWord_of_ok (decode_of_rowMatch hrow)]
    · have hdecode : decode w = .error .cfgReserved := by
        simp [decode, hm, mt (and_mustBeZero_eq_zero_iff hop).mpr hzero]
      rw [codeOf_of_reserved hop hzero, checksOfWord_of_error hdecode]
      rfl

/-- Settles O16: ERRCODE is what the word's table reports, and that is the claim's table. -/
theorem reportedCodeFollowsCheckOrder : Obligations.ReportedCodeFollowsCheckOrder := by
  intro w s
  obtain ⟨t, ht⟩ := completeWord_answers w s
  exact ⟨t, ht, (errcode_of_completeWord ht).trans (codeOf_eq_reportOf w s).symm⟩

end Sys2Proof.Proofs
end

section
/-! Reset and the idle block (`70_reset_and_hazards.md` R230 to R232): power-on reset and soft reset leave the same
registers, the reset state has the invariant, and an idle block stays as it is. -/

namespace Sys2Proof.Proofs
open Sys2Proof Sys2Proof.Machine Sys2Proof.Claims

/-- STATUS after power-on: no flag and code 0. -/
theorem statusWord_powerOn (p : Params) : statusWord (State.powerOn p) = 0 :=
  BitVec.eq_of_toNat_eq (statusWord_toNat _)

/-- After power-on each register reads the reset column of `10_state.md` R23, whatever the parameters. -/
theorem readReg_powerOn (r : Reg) (p : Params) : readReg r (State.powerOn p) = resetValue r := by
  cases r with
  | status => exact statusWord_powerOn p
  | ctrl | dim | gainR | gainG | gainB | maxval => simp [readReg, State.powerOn, resetValue]
  | _ => rfl

/-- What soft reset keeps (memory, faults, events, reads) no register read sees, so it reads as power-on does. -/
theorem readReg_softReset (r : Reg) (s : State) : readReg r (State.softReset s) = resetValue r :=
  calc readReg r (State.softReset s)
    _ = readReg r (State.powerOn s.params) := by cases r <;> rfl
    _ = resetValue r := readReg_powerOn r s.params

/-- A write of CTRL with bit 1 set while BUSY = 0 is a soft reset. -/
theorem hostStep_softReset {s : State} (hb : s.busy = false) {v : Word} (hv : v.getLsbD 1 = true) :
    hostStep (.regWrite (regOffset .ctrl) 4 v) s = State.softReset s :=
  (hostStep_regWrite_of_idle hb .ctrl v).trans (writeCtrl_of_softReset hv s)

/-- Settles O49: the write is a soft reset while BUSY = 0, and is ignored while BUSY = 1. -/
theorem softResetRestoresRegisters : Obligations.SoftResetRestoresRegisters := by
  intro s v hv
  constructor
  · intro hb
    have hreset : hostStep (.regWrite 0x04 4 v) s = State.softReset s := hostStep_softReset hb hv
    rw [hreset]
    exact ⟨fun r => readReg_softReset r s, State.softReset_mem s, State.softReset_faults s, State.softReset_busy s⟩
  · intro hb
    exact (hostStep_regWrite (accessedReg_regOffset .ctrl) v s).trans (writeReg_of_busy hb .ctrl v)

/-- Settles O48: the flags and the fault set are the power-on state's own fields. -/
theorem resetRegisterValues : Obligations.ResetRegisterValues :=
  ⟨fun r => readReg_powerOn r _, rfl, rfl, rfl, rfl⟩

/-- With BUSY = 0 no completion is enabled, and the engine's turn leaves the state (log entry 10). -/
theorem engineStep_of_idle {s : State} (hb : s.busy = false) : engineStep s = .next s :=
  if_neg (Bool.eq_false_iff.mp hb)

/-- Settles O12: with no event to come the step is the engine's turn, and the engine is idle. -/
theorem idleBlockStays : Obligations.IdleBlockStays := by
  rintro s ⟨hevents, hb⟩
  exact (step_of_no_events hevents).trans (engineStep_of_idle hb)

/-- MEM_SIZE is some value of 1 .. 2^32 (`20_memory.md` R60), which is all that is known of it. -/
theorem memSize_bounds : 1 ≤ Config.memSize ∧ Config.memSize ≤ 2 ^ 32 :=
  ⟨Nat.succ_pos _, Config.memSizeLessOne.isLt⟩

/-- The defaults of `00_scope.md` R7 lie in their ranges, at every legal MEM_SIZE. -/
theorem params_default_wf {memSize : Nat} (h : 1 ≤ memSize ∧ memSize ≤ 2 ^ 32) : (Params.default memSize).wf := by
  obtain ⟨hpos, hmax⟩ := h
  exact ⟨hpos, hmax, by simp [Params.default]⟩

/-- The power-on state is its own soft reset, so its status registers agree. -/
theorem statusConsistent_powerOn (p : Params) : (State.powerOn p).statusConsistent :=
  statusConsistent_softReset (State.powerOn p)

/-- No byte of memory is written at power-on, so with legal parameters the invariant holds. -/
theorem inv_powerOn {p : Params} (hp : p.wf) : State.inv (State.powerOn p) :=
  ⟨hp, ⟨List.Pairwise.nil, List.forall_mem_nil _⟩, statusConsistent_powerOn p⟩

/-- Settles O13. -/
theorem resetHasInvariant : Obligations.ResetHasInvariant :=
  inv_powerOn (params_default_wf memSize_bounds)

end Sys2Proof.Proofs
end
